-- ==== Sys2Proof/Word.lean ====
section
/-!
DEFINITION. The unit of storage of the Cipher Engine CORE: the 32-bit cell, and the text, a finite sequence of cells
(spec/00_scope.md rules R5 and R7).
-/

namespace Sys2Proof

/-- A cell, also the width of every register, cell index and command word (R5, R23). Its signed reading `sint32` is
`BitVec.toInt`, its unsigned reading `uint32` is `BitVec.toNat`, and `enc32` is `BitVec.ofInt 32`. -/
abbrev Cell := BitVec 32

/-- A text: one character per cell, cell `i` of the list holding character `i` (R7, R53). -/
abbrev Text := List Cell

end Sys2Proof
end

