-- ==== Sys2Proof/Syntax.lean ====
section
/-!
DEFINITION. The commands of spec/opcode_table.json, one constructor a row (spec/30_encoding.md rules R72 and R73), and the
names that operands and host transactions use: directions, address spaces and registers.
-/

namespace Sys2Proof

/-- A command. The four legal words of R72 carry nothing; a reserved word keeps its bits (R73), which no meaning reads. -/
inductive Instr where
  /-- DEC, 0x00000000: decrypt with the given shift (R182). -/
  | dec
  /-- ENC, 0x00000001: encrypt with the given shift (R183). -/
  | enc
  /-- DECA, 0x00000002: decrypt with automatic (unknown) shift (R184). -/
  | deca
  /-- ENCR, 0x00000003: encrypt with a random shift (R185). -/
  | encr
  /-- RSVD, any word with bits 31:2 not all zero (R186). -/
  | rsvd (word : Cell)
  deriving DecidableEq, Repr

/-- The direction of a rotation: `fwd` encrypts, `bwd` decrypts (R92). -/
inductive Direction where
  | fwd
  | bwd
  deriving DecidableEq, Repr

/-- The three address spaces REG, IN and OUT (R50). -/
inductive Space where
  | reg
  | inp
  | out
  deriving DecidableEq, Repr

/-- The seven registers of R23. -/
inductive Reg where
  | cmd
  | shift
  | inLen
  | status
  | shiftUsed
  | outLen
  | maxLen
  deriving DecidableEq, Repr

end Sys2Proof
end

