-- ==== Sys2Proof/WellFormed.lean ====
section
/-!
DEFINITION. Which terms of `Instr` stand for a command word: a reserved instruction must hold a reserved word
(spec/30_encoding.md rule R73).
-/

namespace Sys2Proof

/-- Field RSVD of a command word: bits 31:2 (R70). -/
def rsvdField (w : Cell) : BitVec 30 := w.extractLsb' 2 30

/-- The four legal commands are well formed; a reserved one holds a word with bits 31:2 not all zero (R72, R73). -/
def Instr.wellFormed (i : Instr) : Bool :=
  match i with
  | .dec => true
  | .enc => true
  | .deca => true
  | .encr => true
  | .rsvd w => rsvdField w != 0#30

end Sys2Proof
end

