-- ==== Sys2Proof/Decode.lean ====
section
/-!
DEFINITION. The decoder and encoder of command words (spec/30_encoding.md rules R70 to R74), and the reading of a word of
spec/opcode_table.json.
-/

namespace Sys2Proof

/-- Field ENC of a command word: bit 0 (R70). -/
def encBit (w : Cell) : Bool := w.getLsbD 0

/-- Field AUTO of a command word: bit 1 (R70). -/
def autoBit (w : Cell) : Bool := w.getLsbD 1

/-- The decoder, total on every 32-bit word (R74). A reserved word's bits ENC and AUTO are ignored (R73). -/
def decode (w : Cell) : Instr :=
  if rsvdField w ≠ 0#30 then .rsvd w
  else match autoBit w, encBit w with
    | false, false => .dec
    | false, true => .enc
    | true, false => .deca
    | true, true => .encr

/-- The command word of an instruction (R72); a reserved instruction is its own word. -/
def encode (i : Instr) : Cell :=
  match i with
  | .dec => 0x00000000#32
  | .enc => 0x00000001#32
  | .deca => 0x00000002#32
  | .encr => 0x00000003#32
  | .rsvd w => w

/-- The cell that holds a word of the opcode table: its low `nbits` bits, every bit above them zero. A command is one
32-bit cell moved whole, so no byte order enters (R53, R70; log entry 8). -/
def tableCell (nbits w : Nat) : Cell := BitVec.ofNat 32 (w % 2 ^ nbits)

/-- The instruction the decoder reads from a table word of at most 32 bits; no longer command exists (R70). -/
def decodeTableWord (nbits w : Nat) : Option Instr :=
  if nbits ≤ 32 then some (decode (tableCell nbits w)) else none

end Sys2Proof
end

