-- ==== Sys2Proof/Config.lean ====
section
/-!
DEFINITION. The implementation parameters of spec/00_scope.md rule R4: the values the spec fixes, and, as constants with no
body, what it leaves open. Nothing in Lean can evaluate an open constant or prove a value of it.
-/

namespace Sys2Proof

/-- What the random-source port can deliver: 24 values, so that no value outside 1 to 24 can be expressed
(R132; spec/93_implementation_defined.md U3). The draw `d` stands for the shift `d + 1`, see `Machine.drawShift`. -/
abbrev Draw := Fin 24

/-- `ALPHA_N`: letters in each alphabet (R4). -/
def Config.alphaN : Nat := 26

/-- `RAND_MIN`: the smallest random shift (R4, R131). -/
def Config.randMin : Nat := 1

/-- `SCAN_FIRST`: the first candidate shift (R4, R154). -/
def Config.scanFirst : Nat := 1

/-- `SCAN_LAST`: the last candidate shift (R4, R154). -/
def Config.scanLast : Nat := 25

/-- `THRESH_NUM`: numerator of the passable proportion (R4, R153). -/
def Config.threshNum : Nat := 9

/-- `THRESH_DEN`: denominator of the passable proportion (R4, R153). -/
def Config.threshDen : Nat := 10

/-- `SPACE`: the separator's code (R4, R115). -/
def Config.space : Cell := 0x20#32

/-- FREE VALUE (log entry 3): fixes the open parameter `MAX_TEXT_LEN`, one below it, so that it lies in 1 to 2^32 - 1. -/
opaque Config.maxTextLenPred : Fin 4294967295

/-- `MAX_TEXT_LEN`, OPEN (R4): some number from 1 to 2^32 - 1. A state carries it in its register MAX_LEN (R33). -/
def Config.maxTextLen : Nat := Config.maxTextLenPred.val + 1

/-- FREE VALUE (log entry 4): the draw with the given number, when the platform has injected none (R132). -/
opaque Config.freeDraw : Nat → Draw

/-- FREE VALUE (log entry 5): the answer of the unconstrained dictionary oracle with the given number to one query
(R150). The number changes from one DECA to the next, so that the dictionary may differ between commands (D9). -/
opaque Config.freeDict : Nat → Text → Bool

/-- FREE VALUE (log entry 2): what IN_BUF cell `i` holds after the reset with the given number until it is written
(R242). -/
opaque Config.freeIn : Nat → Nat → Cell

/-- FREE VALUE (log entry 2): what OUT_BUF cell `i` holds after the reset with the given number until it is written
(R242). -/
opaque Config.freeOut : Nat → Nat → Cell

end Sys2Proof
end

