-- ==== Sys2Proof/Machine/State.lean ====
section
/-!
DEFINITION. The machine's state as plain data, the reasons a step can stop, the outcome and error codes of STATUS, and the
state after reset (spec/10_state.md, spec/70_reset_and_hazards.md rules R240 to R242).
-/

namespace Sys2Proof.Machine

/-- Field STATUS.RESULT, the outcome of the most recent command (R27). -/
inductive Result where
  | none
  | ok
  | noMatch
  | error
  deriving DecidableEq, Repr

/-- Field STATUS.ERRCODE, the reason for the most recent outcome (R29); its values 3 to 15 are never produced. -/
inductive ErrCode where
  | none
  | rsvdCmd
  | lenRange
  deriving DecidableEq, Repr

/-- A buffer's written cells: pairs of cell index and cell, in the canonical form `Memory.wf`. An index that is not
listed has not been written since the last reset event (R242; log entry 2). -/
abbrev Memory := List (Nat × Cell)

/-- The random-source port (R132): the draws the platform injects, next first, and then free draws, of which `taken`
have been delivered (log entry 4). -/
structure RandomPort where
  injected : List Draw
  taken : Nat
  deriving DecidableEq, Repr

/-- The dictionary port (R150; log entry 5): a loaded set of texts, or an oracle nothing is known of, with its number. -/
inductive DictPort where
  | loaded (entries : List Text)
  | free (number : Nat)
  deriving DecidableEq, Repr

/-- What the world outside the block does between two commands, one event a step. -/
inductive HostEvent where
  /-- The host transaction `RD(space, i)` (R51). -/
  | rd (space : Space) (i : Cell)
  /-- The host transaction `WR(space, i, v)` (R51). -/
  | wr (space : Space) (i v : Cell)
  /-- The reset input is asserted (R240). -/
  | reset
  /-- The collaborator that owns the dictionary changes it (R150, R220). -/
  | loadDict (d : DictPort)
  /-- The platform attaches a random source, such as a deterministic sequence (R132, R243). -/
  | attachRandom (p : RandomPort)
  deriving DecidableEq, Repr

/-- The state: the spec's registers and buffers (R20, R23, R36), and, below them, the model's own fields for the
parameters of the step relation (R38) and for the host (R51). Register CMD stores nothing (R24). -/
structure State where
  /-- Register SHIFT (R25). -/
  shift : Cell
  /-- Register IN_LEN (R26). -/
  inLen : Cell
  /-- Register STATUS (R27 to R30). -/
  status : Cell
  /-- Register SHIFT_USED (R31). -/
  shiftUsed : Cell
  /-- Register OUT_LEN (R32). -/
  outLen : Cell
  /-- Register MAX_LEN: the constant MAX_TEXT_LEN, which no step changes (R33; log entry 3). -/
  maxLen : Cell
  /-- The written cells of IN_BUF (R36). -/
  inBuf : Memory
  /-- The written cells of OUT_BUF (R36). -/
  outBuf : Memory
  /-- MODEL'S OWN: reset events taken; it numbers the free contents of unwritten cells (R242; log entry 2). -/
  resets : Nat
  /-- MODEL'S OWN: the random-source port (R38, R132; log entry 4). -/
  rng : RandomPort
  /-- MODEL'S OWN: the dictionary port (R38, R150; log entry 5). -/
  dict : DictPort
  /-- MODEL'S OWN: the events still to come, next first (R51, R57; log entry 1). -/
  host : List HostEvent
  /-- MODEL'S OWN: the cells returned to the host by its reads, oldest first (R51; log entry 6). -/
  responses : List Cell
  deriving DecidableEq, Repr

/-- Reasons for the machine to stop with a fault: there are none, since the block raises no exception, fault or trap and
no transaction faults (R52, R210). Safe: the type has no value. -/
inductive Fault where
  deriving DecidableEq, Repr

/-- Reasons to refuse an instruction. -/
inductive Refusal where
  /-- Raised by an arm of `exec` whose instruction has no meaning yet, with its mnemonic; no arm raises it now. Safe: the
  model stops where the hardware goes on. -/
  | notModelled (mnemonic : String)
  deriving DecidableEq, Repr

/-- The machine right after reset (R39, R241): SHIFT, IN_LEN, STATUS, SHIFT_USED and OUT_LEN are 0, MAX_LEN is the open
MAX_TEXT_LEN, and no buffer cell has been written (R242). The model's own fields start as log entry 12 says. -/
def State.reset : State where
  shift := 0#32
  inLen := 0#32
  status := 0#32
  shiftUsed := 0#32
  outLen := 0#32
  maxLen := BitVec.ofNat 32 Config.maxTextLen
  inBuf := []
  outBuf := []
  resets := 0
  rng := { injected := [], taken := 0 }
  dict := .free 0
  host := []
  responses := []

end Sys2Proof.Machine
end

