-- ==== Sys2Proof/Machine/Flags.lean ====
section
/-!
DEFINITION. Register STATUS, the block's only flags (spec/10_state.md rules R27 to R30 and R40): how its fields make the
register, and how a field is read.
-/

namespace Sys2Proof.Machine

/-- The two bits of STATUS.RESULT (R27). -/
def resultCode (r : Result) : BitVec 2 :=
  match r with
  | .none => 0#2
  | .ok => 1#2
  | .noMatch => 2#2
  | .error => 3#2

/-- The four bits of STATUS.ERRCODE (R29). -/
def errCode (e : ErrCode) : BitVec 4 :=
  match e with
  | .none => 0#4
  | .rsvdCmd => 1#4
  | .lenRange => 2#4

/-- STATUS from its fields: bits [31:8] zero (R30), ERRCODE [7:4] (R29), MODE_AUTO [3] and MODE_ENC [2] (R28),
RESULT [1:0] (R27). -/
def statusWord (r : Result) (modeEnc modeAuto : Bool) (e : ErrCode) : Cell :=
  0#24 ++ errCode e ++ BitVec.ofBool modeAuto ++ BitVec.ofBool modeEnc ++ resultCode r

/-- STATUS.RESULT, bits [1:0] (R27). -/
def statusResult (v : Cell) : BitVec 2 := v.extractLsb' 0 2

/-- STATUS.MODE_ENC, bit 2 (R28). -/
def statusModeEnc (v : Cell) : Bool := v.getLsbD 2

/-- STATUS.MODE_AUTO, bit 3 (R28). -/
def statusModeAuto (v : Cell) : Bool := v.getLsbD 3

/-- STATUS.ERRCODE, bits [7:4] (R29). -/
def statusErrCode (v : Cell) : BitVec 4 := v.extractLsb' 4 4

/-- The reserved bits [31:8] of STATUS (R30). -/
def statusReserved (v : Cell) : BitVec 24 := v.extractLsb' 8 24

end Sys2Proof.Machine
end

