-- ==== Sys2Proof/Machine/Ops.lean ====
section
/-!
DEFINITION. The named operations over the state: buffers (spec/10_state.md rule R36, spec/20_memory.md rule R50),
registers (R23), the two ports (R132, R150), the reset event (R240), and the three completion primitives of a command
(spec/44_commands.md rule R181). The block has no exceptions (R210), so there is no operation that takes one.
-/

namespace Sys2Proof.Machine

/-! Buffers. -/

/-- The cell written at index `i`, if one was. -/
def Memory.lookup (m : Memory) (i : Nat) : Option Cell :=
  match m with
  | [] => none
  | (a, v) :: rest => if a = i then some v else Memory.lookup rest i

/-- Write one cell, keeping the indices strictly rising. -/
def Memory.write (m : Memory) (i : Nat) (v : Cell) : Memory :=
  match m with
  | [] => [(i, v)]
  | (a, u) :: rest =>
    if i < a then (i, v) :: (a, u) :: rest
    else if i = a then (i, v) :: rest
    else (a, u) :: Memory.write rest i v

/-- Write the cells of a text at indices `i`, `i + 1`, ... (`MemWrite` of R7). -/
def Memory.writeText (m : Memory) (i : Nat) (t : Text) : Memory :=
  match t with
  | [] => m
  | c :: cs => Memory.writeText (Memory.write m i c) (i + 1) cs

/-- The canonical form of a buffer of `cap` cells: indices strictly rising and below `cap`, so that buffers with the same
written cells are the same list (log entry 2). -/
abbrev Memory.wf (cap : Nat) (m : Memory) : Prop :=
  (m.map Prod.fst).Pairwise (· < ·) ∧ ∀ e ∈ m, e.1 < cap

/-- The number of cells in each buffer, `MAX_TEXT_LEN` (R36), read from the state's register MAX_LEN. -/
def State.capacity (s : State) : Nat := s.maxLen.toNat

/-- The content of IN_BUF[i]: the last value written, or the free value of a cell not written since reset (R242). -/
def State.inCell (s : State) (i : Nat) : Cell := (s.inBuf.lookup i).getD (Config.freeIn s.resets i)

/-- The content of OUT_BUF[i]: the last value written, or the free value of a cell not written since reset (R242). -/
def State.outCell (s : State) (i : Nat) : Cell := (s.outBuf.lookup i).getD (Config.freeOut s.resets i)

/-- `MemRead((IN, 0), n)` (R7, R63). -/
def State.readIn (s : State) (n : Nat) : Text := (List.range n).map s.inCell

/-- `MemWrite((OUT, 0), len(t), t)` (R7, R63). -/
def State.writeOut (s : State) (t : Text) : State := { s with outBuf := s.outBuf.writeText 0 t }

/-- IN_BUF[i] ← v (R52). -/
def State.writeIn (s : State) (i : Nat) (v : Cell) : State := { s with inBuf := s.inBuf.write i v }

/-! Registers. -/

/-- The index of a register in the space REG (R23). -/
def regIndex (r : Reg) : Cell :=
  match r with
  | .cmd => 0#32
  | .shift => 1#32
  | .inLen => 2#32
  | .status => 3#32
  | .shiftUsed => 4#32
  | .outLen => 5#32
  | .maxLen => 6#32

/-- The register at an index of REG; indices 7 and above name none (R34). -/
def regAt (i : Cell) : Option Reg :=
  match i.toNat with
  | 0 => some .cmd
  | 1 => some .shift
  | 2 => some .inLen
  | 3 => some .status
  | 4 => some .shiftUsed
  | 5 => some .outLen
  | 6 => some .maxLen
  | _ => none

/-- What a host read of a register returns (R23); CMD reads 0 (R24). -/
def State.regRead (s : State) (r : Reg) : Cell :=
  match r with
  | .cmd => 0#32
  | .shift => s.shift
  | .inLen => s.inLen
  | .status => s.status
  | .shiftUsed => s.shiftUsed
  | .outLen => s.outLen
  | .maxLen => s.maxLen

/-- A host write to a register other than CMD: SHIFT and IN_LEN store the value as written (R25, R26), and a write to a
read-only register is ignored (R23). A write to CMD stores nothing (R24); it issues a command, see `State.hostWriteReg`. -/
def State.regStore (s : State) (r : Reg) (v : Cell) : State :=
  match r with
  | .cmd => s
  | .shift => { s with shift := v }
  | .inLen => { s with inLen := v }
  | .status => s
  | .shiftUsed => s
  | .outLen => s
  | .maxLen => s

/-! Ports. -/

/-- The shift magnitude that a draw stands for: `RAND_MIN` for the first of the 24 values (R132). -/
def drawShift (d : Draw) : Int := Config.randMin + d.val

/-- `Draw()` (R7, R132): the value delivered, an injected one if there is any, and the port afterwards. -/
def RandomPort.draw (p : RandomPort) : Draw × RandomPort :=
  match p.injected with
  | d :: ds => (d, { injected := ds, taken := p.taken })
  | [] => (Config.freeDraw p.taken, { injected := [], taken := p.taken + 1 })

/-- `Dict(w)` (R150): with a loaded dictionary, whether some entry equals `w` cell for cell. -/
def DictPort.contains (d : DictPort) (w : Text) : Bool :=
  match d with
  | .loaded entries => entries.contains w
  | .free number => Config.freeDict number w

/-- The port after a DECA has used it: a loaded dictionary stays, and the unconstrained oracle becomes another one, since
the dictionary may differ between commands (R150, D9; log entry 5). -/
def DictPort.afterUse (d : DictPort) : DictPort :=
  match d with
  | .loaded entries => .loaded entries
  | .free number => .free (number + 1)

/-- The state with another random-source port. -/
def State.setRng (s : State) (p : RandomPort) : State := { s with rng := p }

/-- The state with another dictionary port. -/
def State.setDict (s : State) (d : DictPort) : State := { s with dict := d }

/-! The host's side. -/

/-- The state with the given events still to come. -/
def State.setHost (s : State) (events : List HostEvent) : State := { s with host := events }

/-- The host receives the cell that its read returned (R51). -/
def State.respond (s : State) (v : Cell) : State := { s with responses := s.responses ++ [v] }

/-- The reset event (R240): every register takes its value of R39 and both buffers become unspecified (R242). MAX_LEN is a
constant (R33), and what is outside the block stays (log entry 7). -/
def State.resetEvent (s : State) : State :=
  { s with
    shift := 0#32, inLen := 0#32, status := 0#32, shiftUsed := 0#32, outLen := 0#32,
    inBuf := [], outBuf := [], resets := s.resets + 1 }

/-! Completion of a command. -/

/-- `complete_ok(w, k, out)` (R181). -/
def State.completeOk (s : State) (w : Cell) (k : Int) (out : Text) : State :=
  { s.writeOut out with
    status := statusWord .ok (encBit w) (autoBit w) .none
    shiftUsed := BitVec.ofInt 32 k
    outLen := BitVec.ofNat 32 out.length }

/-- `complete_nomatch(w)` (R181); only DECA ends so. -/
def State.completeNoMatch (s : State) : State :=
  { s with
    status := statusWord .noMatch false true .none
    shiftUsed := 0#32
    outLen := 0#32 }

/-- `complete_error(code)` (R181): STATUS alone is written. -/
def State.completeError (s : State) (code : ErrCode) : State :=
  { s with status := statusWord .error false false code }

end Sys2Proof.Machine
end

