-- ==== Sys2Proof/Machine/Operands.lean ====
section
/-!
DEFINITION. How a command's operands are assembled (spec/30_encoding.md rule R71, spec/42_shift_selector.md), and the
length check that every legal command makes first (spec/44_commands.md rules R180, R187, R189).
-/

namespace Sys2Proof.Machine

/-- The explicit shift magnitude of DEC and ENC: `sint32(REG.SHIFT)`, not reduced and not range-checked (R71, R130). -/
def State.explicitShift (s : State) : Int := s.shift.toInt

/-- `n = uint32(REG.IN_LEN)` (R71). -/
def State.inputLength (s : State) : Nat := s.inLen.toNat

/-- The text operand `t = MemRead((IN, 0), n)` (R71). -/
def State.inputText (s : State) : Text := s.readIn s.inputLength

/-- The direction of a command word: FWD if ENC = 1, BWD if ENC = 0 (R71). -/
def commandDirection (w : Cell) : Direction := if encBit w then .fwd else .bwd

/-- Run a legal command's effect on its text, unless IN_LEN exceeds MAX_TEXT_LEN, which completes as LEN_RANGE without
reading a cell (R180, R187). -/
def State.lengthChecked (s : State) (effect : Text → State) : State :=
  if s.inputLength > s.capacity then s.completeError .lenRange else effect s.inputText

end Sys2Proof.Machine
end

