-- ==== Sys2Proof/Machine/Rotator.lean ====
section
/-!
DEFINITION. The alphabet tables (spec/10_state.md rule R35) and the character rotator (spec/40_char_rotator.md).
-/

namespace Sys2Proof.Machine

/-- `UPPER[i]` for `i` in 0 to 25 (R35). -/
def upperAt (i : Nat) : Cell := BitVec.ofNat 32 (0x41 + i)

/-- `LOWER[i]` for `i` in 0 to 25 (R35). -/
def lowerAt (i : Nat) : Cell := BitVec.ofNat 32 (0x61 + i)

/-- The constant table UPPER (R35). -/
def upperTable : List Cell := (List.range Config.alphaN).map upperAt

/-- The constant table LOWER (R35). -/
def lowerTable : List Cell := (List.range Config.alphaN).map lowerAt

/-- Uppercase letters: 0x41 to 0x5A (R90). -/
def isUpper (c : Cell) : Bool := 0x41#32 ≤ c && c ≤ 0x5A#32

/-- Lowercase letters: 0x61 to 0x7A (R90). -/
def isLower (c : Cell) : Bool := 0x61#32 ≤ c && c ≤ 0x7A#32

/-- Letters; every other cell value is a non-letter (R90). -/
def isLetter (c : Cell) : Bool := isUpper c || isLower c

/-- The zero-based position of a letter in its alphabet (R91). No rule applies it to a non-letter. -/
def letterPos (c : Cell) : Nat := if isUpper c then c.toNat - 0x41 else c.toNat - 0x61

/-- The shift with the sign of the direction: negated backward (R92). -/
def signedShift (k : Int) (dir : Direction) : Int :=
  match dir with
  | .fwd => k
  | .bwd => -k

/-- The rotated position: a true modulo, in 0 to 25 (R6, R92). `Int.emod` by a positive number is `a - 26·floor(a/26)`. -/
def rotatedPos (c : Cell) (k : Int) (dir : Direction) : Nat :=
  (((letterPos c : Int) + signedShift k dir) % (Config.alphaN : Int)).toNat

/-- `ROT(c, k, dir)` (R92): a letter moves inside its own alphabet, every other cell passes through. -/
def rot (c : Cell) (k : Int) (dir : Direction) : Cell :=
  if isUpper c then upperAt (rotatedPos c k dir)
  else if isLower c then lowerAt (rotatedPos c k dir)
  else c

end Sys2Proof.Machine
end

