-- ==== Sys2Proof/Machine/TextShifter.lean ====
section
/-!
DEFINITION. The tokenizer and the text shifter (spec/41_text_shifter.md; spec/90_conflicts.md C1: empty tokens are kept).
-/

namespace Sys2Proof.Machine

/-- Put a cell in front of the first token of a list of tokens. -/
def consFirst (c : Cell) (toks : List Text) : List Text :=
  match toks with
  | [] => [[c]]
  | tok :: rest => (c :: tok) :: rest

/-- `Split(t)` (R110): the tokens between the separators, empty ones included. Only 0x20 separates (R115). -/
def split (t : Text) : List Text :=
  match t with
  | [] => [[]]
  | c :: cs => if c = Config.space then [] :: split cs else consFirst c (split cs)

/-- `Join` (R111): the tokens with exactly one 0x20 between each pair. -/
def join (toks : List Text) : Text :=
  match toks with
  | [] => []
  | [tok] => tok
  | tok :: tok' :: rest => tok ++ Config.space :: join (tok' :: rest)

/-- `TSHIFT(t, k, dir)` (R112). -/
def tshift (t : Text) (k : Int) (dir : Direction) : Text :=
  join ((split t).map (fun tok => tok.map (fun c => rot c k dir)))

end Sys2Proof.Machine
end

