-- ==== Sys2Proof/Machine/Scanner.lean ====
section
/-!
DEFINITION. The scoring unit and the brute-force scan (spec/43_scanner.md). The dictionary enters as a function from texts
to answers, fixed for the whole scan (rules R150 and R247).
-/

namespace Sys2Proof.Machine

/-- The fold of one cell: an uppercase letter becomes the lowercase letter of the same position (R151). -/
def lowerCell (c : Cell) : Cell := if isUpper c then c + 0x20#32 else c

/-- `LowerFold(w)` (R151). -/
def lowerFold (w : Text) : Text := w.map lowerCell

/-- `n` of `Score(t)`: the number of tokens, empty ones included (R152). -/
def wordCount (t : Text) : Nat := (split t).length

/-- `m` of `Score(t)`: the number of tokens whose fold is in the dictionary, by position (R152). -/
def matchedCount (dict : Text → Bool) (t : Text) : Nat := (split t).countP (fun w => dict (lowerFold w))

/-- `Pass(m, n)` (R153): the exact comparison 10·m ≥ 9·n. -/
def passes (m n : Nat) : Bool := Config.threshNum * n ≤ Config.threshDen * m

/-- The result of `SCAN` (R154). -/
inductive ScanResult where
  | found (shift : Nat) (candidate : Text)
  | noMatch
  deriving DecidableEq, Repr

/-- The candidate of a shift: the ciphertext shifted backward (R154). -/
def candidate (ct : Text) (s : Nat) : Text := tshift ct s .bwd

/-- Whether a candidate is accepted (R152, R153). -/
def accepts (dict : Text → Bool) (cand : Text) : Bool := passes (matchedCount dict cand) (wordCount cand)

/-- The scan over a list of shifts, stopping at the first accepted candidate (R154). -/
def scanOver (dict : Text → Bool) (ct : Text) (shifts : List Nat) : ScanResult :=
  match shifts with
  | [] => .noMatch
  | s :: rest => if accepts dict (candidate ct s) then .found s (candidate ct s) else scanOver dict ct rest

/-- The candidate shifts `SCAN_FIRST` to `SCAN_LAST`, ascending (R4, R154). -/
def scanShifts : List Nat := List.range' Config.scanFirst (Config.scanLast + 1 - Config.scanFirst)

/-- `SCAN(ct)` (R154). -/
def scan (dict : Text → Bool) (ct : Text) : ScanResult := scanOver dict ct scanShifts

end Sys2Proof.Machine
end

