-- ==== Sys2Proof/Machine/Commands.lean ====
section
/-!
DEFINITION. The meanings of the five commands (spec/44_commands.md). Every command completes with exactly one outcome in
every state (rule R191), so every meaning answers a next state.
-/

namespace Sys2Proof.Machine

/-- DEC (R182): the text shifted backward by `sint32(REG.SHIFT)`. -/
def execDec (s : State) : Host.Outcome State Fault Refusal :=
  .next (s.lengthChecked fun t =>
    s.completeOk (encode .dec) s.explicitShift (tshift t s.explicitShift (commandDirection (encode .dec))))

/-- ENC (R183): the text shifted forward by `sint32(REG.SHIFT)`. -/
def execEnc (s : State) : Host.Outcome State Fault Refusal :=
  .next (s.lengthChecked fun t =>
    s.completeOk (encode .enc) s.explicitShift (tshift t s.explicitShift (commandDirection (encode .enc))))

/-- How DECA completes from the result of its scan (R184). -/
def State.completeScan (s : State) (r : ScanResult) : State :=
  match r with
  | .found k cand => s.completeOk (encode .deca) k cand
  | .noMatch => s.completeNoMatch

/-- DECA (R184): the scan of the text with the dictionary current at issue. REG.SHIFT is not read. -/
def execDeca (s : State) : Host.Outcome State Fault Refusal :=
  .next (s.lengthChecked fun t =>
    (s.setDict s.dict.afterUse).completeScan (scan s.dict.contains t))

/-- ENCR (R185): one draw, also for the empty text, and the text shifted forward by it. REG.SHIFT is not read. -/
def execEncr (s : State) : Host.Outcome State Fault Refusal :=
  .next (s.lengthChecked fun t =>
    (s.setRng s.rng.draw.2).completeOk (encode .encr) (drawShift s.rng.draw.1)
      (tshift t (drawShift s.rng.draw.1) (commandDirection (encode .encr))))

/-- RSVD (R186): ERROR with RSVD_CMD, whatever IN_LEN holds (R189) and whatever the word's other bits are (R73). -/
def execRsvd (_word : Cell) (s : State) : Host.Outcome State Fault Refusal :=
  .next (s.completeError .rsvdCmd)

end Sys2Proof.Machine
end

