-- ==== Sys2Proof/Machine/Dispatch.lean ====
section
/-!
DEFINITION. The dispatcher: one arm per command (spec/44_commands.md rule R180).
-/

namespace Sys2Proof.Machine

/-- One command, issued in state `s` (R180). -/
def exec (i : Instr) (s : State) : Host.Outcome State Fault Refusal :=
  match i with
  | .dec => Sys2Proof.Machine.execDec s
  | .enc => Sys2Proof.Machine.execEnc s
  | .deca => Sys2Proof.Machine.execDeca s
  | .encr => Sys2Proof.Machine.execEncr s
  | .rsvd word => Sys2Proof.Machine.execRsvd word s

end Sys2Proof.Machine
end

