-- ==== Sys2Proof/Machine/HostPort.lean ====
section
/-!
DEFINITION. The host port: what each transaction does (spec/20_memory.md rules R50 to R52), the reset event
(spec/70_reset_and_hazards.md rule R240), and the platform's changes of the two collaborators (rules R132, R150, R220).
-/

namespace Sys2Proof.Machine

/-- The cell that `RD(space, i)` returns (R52): outside a space's storage it is 0. -/
def State.hostRead (s : State) (space : Space) (i : Cell) : Cell :=
  match space with
  | .reg => ((regAt i).map s.regRead).getD 0#32
  | .inp => if i.toNat < s.capacity then s.inCell i.toNat else 0#32
  | .out => if i.toNat < s.capacity then s.outCell i.toNat else 0#32

/-- `WR(REG, i, v)`: a write to CMD issues the command whose word is `v` (R24, R180); a reserved index ignores the write
(R34). -/
def State.hostWriteReg (s : State) (i v : Cell) : Host.Outcome State Fault Refusal :=
  match regAt i with
  | some .cmd => exec (decode v) s
  | some r => .next (s.regStore r v)
  | none => .next s

/-- `WR(space, i, v)` (R52): IN stores below MAX_TEXT_LEN and ignores a write above, OUT ignores every write. -/
def State.hostWrite (s : State) (space : Space) (i v : Cell) : Host.Outcome State Fault Refusal :=
  match space with
  | .reg => s.hostWriteReg i v
  | .inp => .next (if i.toNat < s.capacity then s.writeIn i.toNat v else s)
  | .out => .next s

/-- One event performed whole, with its successors already in `s.host` (R51, R57, R240). -/
def State.perform (s : State) (e : HostEvent) : Host.Outcome State Fault Refusal :=
  match e with
  | .rd space i => .next (s.respond (s.hostRead space i))
  | .wr space i v => s.hostWrite space i v
  | .reset => .next s.resetEvent
  | .loadDict d => .next (s.setDict d)
  | .attachRandom p => .next (s.setRng p)

/-- The next event taken from the host's queue and performed; with none pending the block holds its state (R223). -/
def State.serve (s : State) : Host.Outcome State Fault Refusal :=
  match s.host with
  | [] => .next s
  | e :: rest => (s.setHost rest).perform e

/-- The host is about to issue the command word `w`: `WR(REG, 0, w)` comes before every other event (R180). -/
def State.issueNext (s : State) (w : Cell) : State := s.setHost (.wr .reg (regIndex .cmd) w :: s.host)

end Sys2Proof.Machine
end

