-- ==== Sys2Proof/Machine/Step.lean ====
section
/-!
DEFINITION. One step of the machine: the host's next event, performed whole (spec/20_memory.md rule R57). The block fetches
no instructions (spec/10_state.md rule R22); a command comes as the data of a write to CMD (log entry 1).
-/

namespace Sys2Proof.Machine

/-- One step (R57, R240). -/
def step (s : State) : Host.Outcome State Fault Refusal := s.serve

/-- `s` with the opcode-table word `w` as the next command: the host's very next transaction writes it to CMD (R180; log
entries 1 and 8). -/
def State.withFetchWord (s : State) (nbits w : Nat) : State := s.issueNext (tableCell nbits w)

end Sys2Proof.Machine
end

