-- ==== Sys2Proof/Machine/HostProgram.lean ====
section
/-!
DEFINITION. Host programs (spec/30_encoding.md rules R75 to R77): the lines a program is written in, the transactions they
expand to, and the tuple each transaction is written as.
-/

namespace Sys2Proof.Machine

/-- The registers that a line `WR REG.<name>, <value>` may name (R75). -/
inductive WritableReg where
  | cmd
  | shift
  | inLen
  deriving DecidableEq, Repr

/-- The commands that a line `CMD <mnemonic>` may name (R76): the four legal ones. -/
inductive LegalCommand where
  | dec
  | enc
  | deca
  | encr
  deriving DecidableEq, Repr

/-- The integers that a decimal literal may denote: those on which `enc32` is defined (R5). DESIGN CHOICE (log entry 14):
the spec gives no encoding of any other integer, and refuses a shift magnitude outside this range
(spec/93_implementation_defined.md U20), so no other literal can be written. -/
abbrev DecimalValue := { k : Int // -2 ^ 31 ≤ k ∧ k ≤ 2 ^ 31 - 1 }

/-- A value of a line (R75): a hex literal or a quoted character, which is a cell, or a signed decimal literal. -/
inductive Literal where
  | hex (v : Cell)
  | decimal (k : DecimalValue)
  deriving DecidableEq, Repr

/-- A line of a host program: a transaction (R75) or a pseudo-instruction (R76). A comment line is no line here. -/
inductive HostLine where
  /-- `WR REG.<name>, <value>`. -/
  | wrReg (r : WritableReg) (v : Literal)
  /-- `WR IN[<i>], <value>`. -/
  | wrIn (i v : Cell)
  /-- `RD REG.<name>`. -/
  | rdReg (r : Reg)
  /-- `RD IN[<i>]`. -/
  | rdIn (i : Cell)
  /-- `RD OUT[<i>]`. -/
  | rdOut (i : Cell)
  /-- `CMD <mnemonic>`. -/
  | cmd (c : LegalCommand)
  /-- `TEXT "<s>"`. -/
  | text (t : Text)
  /-- `READOUT`. -/
  | readout
  deriving DecidableEq, Repr

/-- The register of a `WR REG` line. -/
def writableReg (r : WritableReg) : Reg :=
  match r with
  | .cmd => .cmd
  | .shift => .shift
  | .inLen => .inLen

/-- The command of a `CMD` line. -/
def legalInstr (c : LegalCommand) : Instr :=
  match c with
  | .dec => .dec
  | .enc => .enc
  | .deca => .deca
  | .encr => .encr

/-- The cell of a literal: `enc32` of a decimal one (R5, R75), whose type holds only integers that `enc32` is defined on. -/
def literalCell (v : Literal) : Cell :=
  match v with
  | .hex v => v
  | .decimal k => BitVec.ofInt 32 k.val

/-- The writes `WR IN[i], c0`, `WR IN[i+1], c1`, ... of a text (R76). DESIGN CHOICE (log entry 14): a position of 2^32 or
more, which no cell index names (R50), is taken modulo 2^32. -/
def textWrites (i : Nat) (t : Text) : List HostEvent :=
  match t with
  | [] => []
  | c :: cs => .wr .inp (BitVec.ofNat 32 i) c :: textWrites (i + 1) cs

/-- The three register reads that READOUT begins with (R76). -/
def readoutRegs : List HostEvent :=
  [.rd .reg (regIndex .status), .rd .reg (regIndex .shiftUsed), .rd .reg (regIndex .outLen)]

/-- `RD OUT[0]` ... `RD OUT[m-1]` (R76). -/
def readoutCells (m : Cell) : List HostEvent := (List.range m.toNat).map fun j => .rd .out (BitVec.ofNat 32 j)

/-- The transactions a line expands to when the host reaches it in state `s` (R75, R76). READOUT alone depends on the
state: its number of cells is what its `RD REG.OUT_LEN` returns, and no read changes a register (R51). DESIGN CHOICE (log
entry 14): the length of a text of 2^32 or more cells, which IN_LEN cannot hold, is taken modulo 2^32. -/
def expandLine (s : State) (l : HostLine) : List HostEvent :=
  match l with
  | .wrReg r v => [.wr .reg (regIndex (writableReg r)) (literalCell v)]
  | .wrIn i v => [.wr .inp i v]
  | .rdReg r => [.rd .reg (regIndex r)]
  | .rdIn i => [.rd .inp i]
  | .rdOut i => [.rd .out i]
  | .cmd c => [.wr .reg (regIndex .cmd) (encode (legalInstr c))]
  | .text t => textWrites 0 t ++ [.wr .reg (regIndex .inLen) (BitVec.ofNat 32 t.length)]
  | .readout => readoutRegs ++ readoutCells (s.hostRead .reg (regIndex .outLen))

/-- The state after the events of a list, performed one after the other. -/
def State.performAll (s : State) (es : List HostEvent) : State :=
  match es with
  | [] => s
  | e :: rest =>
    match s.perform e with
    | .next t => t.performAll rest
    | .fault _ => s
    | .refused _ => s

/-- The transactions of a program that starts in state `s` (R75): each line expands in the state that the lines before it
leave. -/
def expandProgram (s : State) (ls : List HostLine) : List HostEvent :=
  match ls with
  | [] => []
  | l :: rest => expandLine s l ++ expandProgram (s.performAll (expandLine s l)) rest

/-- The transaction tuple `(op, space, index, data)` (R77): `data` is absent for a read, op R, and present for a write,
op W. -/
structure Tuple where
  space : Space
  index : Cell
  data : Option Cell
  deriving DecidableEq, Repr

/-- The tuple of a transaction (R77); the other events are no transactions. -/
def tupleOf (e : HostEvent) : Option Tuple :=
  match e with
  | .rd space i => some { space := space, index := i, data := none }
  | .wr space i v => some { space := space, index := i, data := some v }
  | .reset => none
  | .loadDict _ => none
  | .attachRandom _ => none

/-- The transaction that a tuple writes down (R77). -/
def eventOfTuple (t : Tuple) : HostEvent :=
  match t.data with
  | none => .rd t.space t.index
  | some v => .wr t.space t.index v

end Sys2Proof.Machine
end

