-- ==== Sys2Proof/Safety.lean ====
section
/-!
DEFINITION. What statements speak of: a command's length being in range, the machine's invariant, and the outcomes that
STATUS can show.
-/

namespace Sys2Proof.Machine

/-- The condition under which a legal command has its own effect (R180): IN_LEN is at most MAX_TEXT_LEN. -/
def State.lengthOk (s : State) : Prop := s.inLen.toNat ≤ s.maxLen.toNat

/-- `n` steps, stopping at the first fault or refusal. -/
def steps (n : Nat) (s : State) : Host.Outcome State Fault Refusal :=
  match n with
  | 0 => .next s
  | n + 1 =>
    match step s with
    | .next t => steps n t
    | .fault r => .fault r
    | .refused r => .refused r

/-- What no command changes (R188): the inputs SHIFT, IN_LEN and IN_BUF, the constant MAX_LEN, and the
model's own fields for resets and for the host. -/
structure State.InputsKept (s t : State) : Prop where
  shift : t.shift = s.shift
  inLen : t.inLen = s.inLen
  maxLen : t.maxLen = s.maxLen
  resets : t.resets = s.resets
  inCells : ∀ i, t.inCell i = s.inCell i
  host : t.host = s.host
  responses : t.responses = s.responses

/-- OUT_BUF after a command wrote `out` at OUT[0] (R36, R181): its cells there, every other cell as before. -/
structure State.OutWritten (s t : State) (out : Text) : Prop where
  written : ∀ (i : Nat) (h : i < out.length), t.outCell i = out[i]
  kept : ∀ i, out.length ≤ i → t.outCell i = s.outCell i

/-- The values that STATUS can hold (R181): 0 after reset, then OK of DEC, ENC, DECA and ENCR, NOMATCH, and ERROR with
RSVD_CMD or LEN_RANGE. -/
def statusValues : List Cell := [0x0#32, 0x1#32, 0x5#32, 0x9#32, 0xD#32, 0xA#32, 0x13#32, 0x23#32]

/-- What every step keeps. -/
structure State.Inv (s : State) : Prop where
  /-- MAX_TEXT_LEN is at least 1 (R4). -/
  capacity_pos : 1 ≤ s.maxLen.toNat
  /-- IN_BUF is in canonical form within its MAX_TEXT_LEN cells (R36). -/
  inBuf_wf : s.inBuf.wf s.capacity
  /-- OUT_BUF is in canonical form within its MAX_TEXT_LEN cells (R36). -/
  outBuf_wf : s.outBuf.wf s.capacity
  /-- STATUS is one of the values of R181, or 0; so its reserved bits are 0 (R30). -/
  status_legal : s.status ∈ statusValues
  /-- OUT_LEN never exceeds MAX_TEXT_LEN (R32). -/
  outLen_le : s.outLen.toNat ≤ s.maxLen.toNat
  /-- After OK from DECA, SHIFT_USED is in 1 to 25 (R31). -/
  deca_shift : s.status = 0x9#32 → 1 ≤ s.shiftUsed.toInt ∧ s.shiftUsed.toInt ≤ 25
  /-- After OK from ENCR, SHIFT_USED is in 1 to 24 (R31, R135). -/
  encr_shift : s.status = 0xD#32 → 1 ≤ s.shiftUsed.toInt ∧ s.shiftUsed.toInt ≤ 24
  /-- After NOMATCH, SHIFT_USED and OUT_LEN are 0 (R31, R32). -/
  noMatch_payload : s.status = 0xA#32 → s.shiftUsed = 0#32 ∧ s.outLen = 0#32
  /-- While no command has completed since reset, SHIFT_USED and OUT_LEN are 0 (R39). -/
  none_payload : s.status = 0x0#32 → s.shiftUsed = 0#32 ∧ s.outLen = 0#32

end Sys2Proof.Machine
end

