-- ==== Sys2Proof/Certificates/Slice0/Obligations.lean ====
section
/-!
DEFINITION. The statements for the provers. Each docstring says which rule of spec/ it formalises.
-/

open Sys2Proof Sys2Proof.Machine

/-! Command words (spec/30_encoding.md). -/

/-- R70, R72 to R74: the encoder and the decoder are inverse to each other. -/
def Obligations.DecodeEncodeAgree : Prop :=
  (∀ i : Instr, i.wellFormed = true → decode (encode i) = i) ∧
  (∀ w : Cell, (decode w).wellFormed = true ∧ encode (decode w) = w)

/-- R74: the decode function, by the word's bits [31:2] and [1:0]. -/
def Obligations.DecodeFollowsTheFields : Prop :=
  ∀ w : Cell,
    (w.extractLsb' 2 30 ≠ 0#30 → decode w = .rsvd w) ∧
    (w.extractLsb' 2 30 = 0#30 →
      (w.extractLsb' 0 2 = 0b00#2 → decode w = .dec) ∧
      (w.extractLsb' 0 2 = 0b01#2 → decode w = .enc) ∧
      (w.extractLsb' 0 2 = 0b10#2 → decode w = .deca) ∧
      (w.extractLsb' 0 2 = 0b11#2 → decode w = .encr))

/-- R72, R73: command words written out from the encoding table. -/
def Obligations.CommandWordsDecode : Prop :=
  decode 0x00000000#32 = .dec ∧ decode 0x00000001#32 = .enc ∧ decode 0x00000002#32 = .deca ∧
  decode 0x00000003#32 = .encr ∧ decode 0x00000004#32 = .rsvd 0x00000004#32 ∧
  decode 0x80000003#32 = .rsvd 0x80000003#32 ∧ decode 0xFFFFFFFF#32 = .rsvd 0xFFFFFFFF#32

/-- R73: the reserved words are all but the four of R72; issuing one completes with ERROR and RSVD_CMD and changes
nothing else, whatever its bits ENC and AUTO are. -/
def Obligations.ReservedWordsCompleteAsRsvd : Prop :=
  (∀ w : Cell, (∃ v, decode w = .rsvd v) ↔ 4 ≤ w.toNat) ∧
  (∀ (w : Cell) (s : State), 4 ≤ w.toNat → exec (decode w) s = .next { s with status := 0x13#32 })

/-! The step (spec/20_memory.md R57, spec/44_commands.md R180; the queue of host events is log entry 1). -/

/-- R24, R180: a host write of `w` to CMD is one step, and that step is the decoded command, run with the transaction
taken from the host's queue. A word that `withFetchWord` places is the next command, and it is the one
`decodeTableWord` reads (log entries 1 and 8). -/
def Obligations.StepRunsIssuedCommand : Prop :=
  (∀ (s : State) (w : Cell) (rest : List HostEvent),
    s.host = .wr .reg 0#32 w :: rest → step s = exec (decode w) { s with host := rest }) ∧
  (∀ (s : State) (w : Nat), ∃ i : Instr, decodeTableWord 32 w = some i ∧ step (s.withFetchWord 32 w) = exec i s)

/-- R52, R191, R210, R223: no step stops, since no transaction and no command faults; and with nothing to do the block
holds its state. -/
def Obligations.EveryStepAnswersNextState : Prop :=
  (∀ s : State, ∃ t : State, step s = .next t) ∧ (∀ s : State, s.host = [] → step s = .next s)

/-! Host transactions (spec/20_memory.md, spec/10_state.md). -/

/-- R51, R52: a read returns the register or cell it names, 0 outside a space's storage, and changes nothing else. -/
def Obligations.HostReadsReturnTheCell : Prop :=
  ∀ (s : State) (i : Cell) (rest : List HostEvent),
    (s.host = .rd .reg i :: rest → ∃ v : Cell,
      step s = .next { s with host := rest, responses := s.responses ++ [v] } ∧
      (i = 0#32 → v = 0#32) ∧ (i = 1#32 → v = s.shift) ∧ (i = 2#32 → v = s.inLen) ∧ (i = 3#32 → v = s.status) ∧
      (i = 4#32 → v = s.shiftUsed) ∧ (i = 5#32 → v = s.outLen) ∧ (i = 6#32 → v = s.maxLen) ∧ (7 ≤ i.toNat → v = 0#32)) ∧
    (s.host = .rd .inp i :: rest → ∃ v : Cell,
      step s = .next { s with host := rest, responses := s.responses ++ [v] } ∧
      (i.toNat < s.maxLen.toNat → v = s.inCell i.toNat) ∧ (s.maxLen.toNat ≤ i.toNat → v = 0#32)) ∧
    (s.host = .rd .out i :: rest → ∃ v : Cell,
      step s = .next { s with host := rest, responses := s.responses ++ [v] } ∧
      (i.toNat < s.maxLen.toNat → v = s.outCell i.toNat) ∧ (s.maxLen.toNat ≤ i.toNat → v = 0#32))

/-- R52: a write to IN below MAX_TEXT_LEN sets that cell and no other; one at or above it, or to OUT, is ignored. -/
def Obligations.HostBufferWrites : Prop :=
  ∀ (s : State) (i v : Cell) (rest : List HostEvent),
    (s.host = .wr .inp i v :: rest → i.toNat < s.maxLen.toNat → ∃ t : State,
      step s = .next t ∧ t = { s with host := rest, inBuf := t.inBuf } ∧
      ∀ j, t.inCell j = if j = i.toNat then v else s.inCell j) ∧
    (s.host = .wr .inp i v :: rest → s.maxLen.toNat ≤ i.toNat → step s = .next { s with host := rest }) ∧
    (s.host = .wr .out i v :: rest → step s = .next { s with host := rest })

/-- R23, R25, R26: SHIFT and IN_LEN store what the host writes; a write to a read-only register is ignored. -/
def Obligations.HostRegisterWrites : Prop :=
  ∀ (s : State) (i v : Cell) (rest : List HostEvent), s.host = .wr .reg i v :: rest →
    (i = 1#32 → step s = .next { s with host := rest, shift := v }) ∧
    (i = 2#32 → step s = .next { s with host := rest, inLen := v }) ∧
    (i = 3#32 ∨ i = 4#32 ∨ i = 5#32 ∨ i = 6#32 → step s = .next { s with host := rest })

/-- R34: an index of REG from 7 up names no register: a read there returns 0, a write there is ignored. -/
def Obligations.ReservedIndexReadsZeroIgnoresWrites : Prop :=
  ∀ (s : State) (i : Cell) (rest : List HostEvent), 7 ≤ i.toNat →
    (s.host = .rd .reg i :: rest → step s = .next { s with host := rest, responses := s.responses ++ [0#32] }) ∧
    (∀ v : Cell, s.host = .wr .reg i v :: rest → step s = .next { s with host := rest })

/-- R55: repeating a write to SHIFT, to IN_LEN or to a cell of IN leaves the state that one such write leaves. -/
def Obligations.RepeatedStoringWriteIsIdempotent : Prop :=
  ∀ (s : State) (space : Space) (i v : Cell) (rest : List HostEvent),
    (space = .inp ∨ (space = .reg ∧ (i = 1#32 ∨ i = 2#32))) →
    s.host = .wr space i v :: .wr space i v :: rest →
    ∃ t u : State, step s = .next t ∧ step t = .next u ∧ step { s with host := .wr space i v :: rest } = .next u

/-- R57: a read sees the write before it: of IN below MAX_TEXT_LEN, of SHIFT and of IN_LEN. -/
def Obligations.ReadSeesEarlierWrite : Prop :=
  ∀ (s : State) (space : Space) (i v : Cell) (rest : List HostEvent),
    ((space = .inp ∧ i.toNat < s.maxLen.toNat) ∨ (space = .reg ∧ (i = 1#32 ∨ i = 2#32))) →
    s.host = .wr space i v :: .rd space i :: rest →
    ∃ t u : State, step s = .next t ∧ step t = .next u ∧ u.responses = s.responses ++ [v] ∧ u.host = rest

/-- R33 (that a state carries MAX_TEXT_LEN in MAX_LEN is log entry 3): MAX_LEN is a constant: no step changes it, a
read returns it, and reset leaves MAX_TEXT_LEN in it; with R4's range of MAX_TEXT_LEN. -/
def Obligations.MaxLenIsConstant : Prop :=
  (∀ s t : State, step s = .next t → t.maxLen = s.maxLen) ∧
  (∀ s : State, s.hostRead .reg 6#32 = s.maxLen) ∧
  State.reset.maxLen.toNat = Config.maxTextLen ∧ 1 ≤ Config.maxTextLen ∧ Config.maxTextLen ≤ 2 ^ 32 - 1

/-- R76: a line TEXT, run by the host (its queue is log entry 1), leaves the text in IN_BUF and its length in IN_LEN,
and changes no other part of the state. -/
def Obligations.TextLineFillsInput : Prop :=
  ∀ (s : State) (t : Text) (rest : List HostEvent),
    t.length ≤ s.maxLen.toNat → s.host = expandLine s (.text t) ++ rest →
    ∃ u : State, steps (t.length + 1) s = .next u ∧
      u = { s with host := rest, inLen := u.inLen, inBuf := u.inBuf } ∧
      u.inLen.toNat = t.length ∧ (∀ (i : Nat) (h : i < t.length), u.inCell i = t[i]) ∧
      ∀ i, t.length ≤ i → u.inCell i = s.inCell i

/-- R76 (the host's queue is log entry 1): a line READOUT, reached after any lines before it, reads STATUS, SHIFT_USED and
OUT_LEN, and then as many cells of OUT as its read of OUT_LEN returned; an index from MAX_TEXT_LEN up reads 0 (R52), and
nothing else changes (R51). -/
def Obligations.ReadoutReadsTheResult : Prop :=
  ∀ (s : State) (before : List HostLine) (rest : List HostEvent),
    s.host = expandProgram s (before ++ [.readout]) ++ rest →
    ∃ u : State, steps (expandProgram s before).length s = .next u ∧
      u.host = [.rd .reg 3#32, .rd .reg 4#32, .rd .reg 5#32] ++
        (List.range u.outLen.toNat).map (fun j => .rd .out (BitVec.ofNat 32 j)) ++ rest ∧
      steps (3 + u.outLen.toNat) u = .next { u with
        host := rest
        responses := u.responses ++ [u.status, u.shiftUsed, u.outLen] ++
          (List.range u.outLen.toNat).map fun j => if j < u.maxLen.toNat then u.outCell j else 0#32 }

/-! Reset (spec/70_reset_and_hazards.md, spec/10_state.md R39). -/

/-- R39, R241: the registers after reset. -/
def Obligations.RegistersAfterReset : Prop :=
  State.reset.shift = 0#32 ∧ State.reset.inLen = 0#32 ∧ State.reset.status = 0#32 ∧ State.reset.shiftUsed = 0#32 ∧
  State.reset.outLen = 0#32 ∧ State.reset.hostRead .reg 0#32 = 0#32 ∧
  State.reset.maxLen = BitVec.ofNat 32 Config.maxTextLen

/-- R39, R240: the reset event puts every register into its reset value, whatever the state; it takes no draw and asks
nothing of the dictionary. What it keeps of the model's own fields is log entry 7. -/
def Obligations.ResetEventClearsRegisters : Prop :=
  ∀ (s : State) (rest : List HostEvent), s.host = .reset :: rest → ∃ t : State, step s = .next t ∧
    t.shift = 0#32 ∧ t.inLen = 0#32 ∧ t.status = 0#32 ∧ t.shiftUsed = 0#32 ∧ t.outLen = 0#32 ∧
    t.maxLen = s.maxLen ∧ t.rng = s.rng ∧ t.dict = s.dict ∧ t.host = rest ∧ t.responses = s.responses

/-- R243 (the buffers' and the model's own fields after reset are log entries 2 and 12, and no value of theirs
matters): a command issued straight after reset completes on a text of length 0: ENC gives OK with OUT_LEN = 0. -/
def Obligations.EncStraightAfterReset : Prop :=
  exec .enc State.reset = .next { State.reset with status := 0x5#32 }

/-! Character rotator (spec/40_char_rotator.md). -/

/-- R90, R91, R35: the two classes of letters are the two tables and the two ranges, disjoint; everything else is a
non-letter; a letter's position is in 0 to 25. -/
def Obligations.LettersAreTheTables : Prop :=
  (∀ i : Nat, i < 26 → upperTable[i]? = some (BitVec.ofNat 32 (0x41 + i)) ∧ lowerTable[i]? = some (BitVec.ofNat 32 (0x61 + i))) ∧
  ∀ c : Cell,
    (isUpper c = true ↔ c ∈ upperTable) ∧ (isUpper c = true ↔ 0x41 ≤ c.toNat ∧ c.toNat ≤ 0x5A) ∧
    (isLower c = true ↔ c ∈ lowerTable) ∧ (isLower c = true ↔ 0x61 ≤ c.toNat ∧ c.toNat ≤ 0x7A) ∧
    ¬(isUpper c = true ∧ isLower c = true) ∧
    (isLetter c = false ↔ c.toNat ≤ 0x40 ∨ (0x5B ≤ c.toNat ∧ c.toNat ≤ 0x60) ∨ 0x7B ≤ c.toNat) ∧
    (isUpper c = true → letterPos c = c.toNat - 0x41) ∧ (isLower c = true → letterPos c = c.toNat - 0x61) ∧
    (isLetter c = true → letterPos c ≤ 25)

/-- R92, R6: a letter's result is its alphabet's letter at the one position of 0 to 25 that differs from its own position
plus the signed shift by a multiple of 26. -/
def Obligations.RotMovesBySignedShift : Prop :=
  ∀ (c : Cell) (k : Int) (p : Nat),
    p ≤ 25 →
    ((isUpper c = true → (26 : Int) ∣ (c.toNat : Int) - 0x41 + k - p → rot c k .fwd = BitVec.ofNat 32 (0x41 + p)) ∧
     (isUpper c = true → (26 : Int) ∣ (c.toNat : Int) - 0x41 - k - p → rot c k .bwd = BitVec.ofNat 32 (0x41 + p)) ∧
     (isLower c = true → (26 : Int) ∣ (c.toNat : Int) - 0x61 + k - p → rot c k .fwd = BitVec.ofNat 32 (0x61 + p)) ∧
     (isLower c = true → (26 : Int) ∣ (c.toNat : Int) - 0x61 - k - p → rot c k .bwd = BitVec.ofNat 32 (0x61 + p)))

/-- R93, R94: ROT keeps the class of its cell, and every non-letter passes through. -/
def Obligations.RotKeepsCase : Prop :=
  ∀ (c : Cell) (k : Int) (dir : Direction),
    (isUpper c = true → isUpper (rot c k dir) = true) ∧ (isLower c = true → isLower (rot c k dir) = true) ∧
    (isLetter c = false → rot c k dir = c)

/-- R95: rotating one way and back gives the cell. -/
def Obligations.RotRoundTrip : Prop :=
  ∀ (c : Cell) (k : Int), rot (rot c k .fwd) k .bwd = c ∧ rot (rot c k .bwd) k .fwd = c

/-- The identities that spec/40_char_rotator.md derives from R92 and R6 under R96, its own inference: the bijection,
and the rotation of each alphabet by k mod 26. -/
def Obligations.RotIdentities : Prop :=
  (∀ (c : Cell) (k : Int), rot c k .bwd = rot c (-k) .fwd) ∧
  (∀ (c : Cell) (k : Int) (dir : Direction), rot c k dir = rot c (k % 26) dir) ∧
  (∀ (c : Cell) (k j : Int), rot (rot c k .fwd) j .fwd = rot c (k + j) .fwd) ∧
  (∀ (c : Cell) (k : Int), isLetter c = true → (rot c k .fwd = c ↔ k % 26 = 0)) ∧
  (∀ (k : Int) (dir : Direction), Function.Bijective fun c => rot c k dir) ∧
  (∀ (i : Nat) (k : Int), i < 26 →
    rot (upperAt i) k .fwd = upperAt (((i : Int) + k % 26) % 26).toNat ∧
    rot (lowerAt i) k .fwd = lowerAt (((i : Int) + k % 26) % 26).toNat ∧
    rot (upperAt i) k .bwd = upperAt (((i : Int) + (-k) % 26) % 26).toNat ∧
    rot (lowerAt i) k .bwd = lowerAt (((i : Int) + (-k) % 26) % 26).toNat)

/-- What the spec derives from R92 and R6 under R97, its own inference: the equivalent form that reduces the shift
first, with the residue r = k mod 26 in 0 to 25. -/
def Obligations.RotReducedForm : Prop :=
  ∀ (c : Cell) (k : Int) (r : Nat), (r : Int) = k % 26 → r ≤ 25 ∧
    (isUpper c = true →
      rot c k .fwd = upperAt ((letterPos c + r) % 26) ∧ rot c k .bwd = upperAt ((letterPos c + 26 - r) % 26)) ∧
    (isLower c = true →
      rot c k .fwd = lowerAt ((letterPos c + r) % 26) ∧ rot c k .bwd = lowerAt ((letterPos c + 26 - r) % 26)) ∧
    (isLetter c = false → rot c k .fwd = c ∧ rot c k .bwd = c)

/-! Text shifter (spec/41_text_shifter.md). -/

/-- R110: Split gives the one list of tokens without 0x20 that joins to the text with one 0x20 between each pair; its
length is one more than the number of cells equal to 0x20. -/
def Obligations.SplitIsTheTokenization : Prop :=
  ∀ t : Text,
    (split t).length = t.count 0x20#32 + 1 ∧ (∀ tok ∈ split t, 0x20#32 ∉ tok) ∧
    [0x20#32].intercalate (split t) = t ∧
    ∀ toks : List Text, toks ≠ [] → (∀ tok ∈ toks, 0x20#32 ∉ tok) → [0x20#32].intercalate toks = t → toks = split t

/-- R111: Join puts exactly one 0x20 between each pair of tokens; and, the spec's own inference from R110, joining a
split text gives the text. -/
def Obligations.JoinInvertsSplit : Prop :=
  (∀ toks : List Text, join toks = [0x20#32].intercalate toks) ∧ (∀ t : Text, join (split t) = t)

/-- What the spec derives from R94 and R110 to R112 under R113, its own inference: the text shifter is the rotator
mapped over the cells. -/
def Obligations.TshiftIsPerCharacter : Prop :=
  ∀ (t : Text) (k : Int) (dir : Direction), tshift t k dir = t.map fun c => rot c k dir

/-- What the spec derives under R114, its own inference: length, lanes, the places of 0x20, and the tokens. -/
def Obligations.TshiftKeepsLanesAndTokens : Prop :=
  ∀ (t : Text) (k : Int) (dir : Direction),
    (tshift t k dir).length = t.length ∧
    (∀ i : Nat, (tshift t k dir)[i]? = t[i]?.map fun c => rot c k dir) ∧
    (∀ i : Nat, t[i]? = some 0x20#32 → (tshift t k dir)[i]? = some 0x20#32) ∧
    (split (tshift t k dir)).length = (split t).length ∧
    (∀ j : Nat, (split (tshift t k dir))[j]? = (split t)[j]?.map fun tok => tshift tok k dir)

/-- What the spec derives from R95 under R116, its own inference: shifting a text forward and then backward gives the
text. -/
def Obligations.TshiftRoundTrip : Prop :=
  ∀ (t : Text) (k : Int), tshift (tshift t k .fwd) k .bwd = t

/-! Scanner (spec/43_scanner.md). -/

/-- R151: LowerFold works cell by cell: an uppercase letter becomes the lowercase letter of the same position, every
other cell stays, and the length stays. -/
def Obligations.LowerFoldFoldsLettersOnly : Prop :=
  ∀ w : Text, (lowerFold w).length = w.length ∧
    ∀ (i : Nat) (c : Cell), w[i]? = some c →
      (isUpper c = true → (lowerFold w)[i]? = some (lowerAt (letterPos c))) ∧
      (isUpper c = false → (lowerFold w)[i]? = some c)

/-- R110, R152, R156: n is the number of 0x20 plus one, so at least 1, and m is at most n. That every candidate (R154,
a text shifted by R112 and R94) has the ciphertext's n is the spec's own inference under R114 and R158. -/
def Obligations.ScoreCountsEveryToken : Prop :=
  ∀ (dict : Text → Bool) (t : Text),
    wordCount t = t.count 0x20#32 + 1 ∧ 1 ≤ wordCount t ∧ matchedCount dict t ≤ wordCount t ∧
    matchedCount dict t = (((split t).map lowerFold).filter dict).length ∧
    ∀ s : Nat, wordCount (candidate t s) = wordCount t

/-- What the spec derives from R153 under R162, its own inference: Pass holds exactly when the unmatched words are at
most a tenth of the words, rounded down; with the rule's instances. -/
def Obligations.ThresholdAllowsATenthUnmatched : Prop :=
  (∀ m n : Nat, m ≤ n → (passes m n = true ↔ n - m ≤ n / 10)) ∧
  (∀ m n : Nat, m ≤ n → 1 ≤ n → n ≤ 9 → (passes m n = true ↔ m = n)) ∧
  (∀ m n : Nat, m ≤ n → 10 ≤ n → n ≤ 19 → (passes m n = true ↔ n ≤ m + 1)) ∧
  (∀ m n : Nat, m ≤ n → 20 ≤ n → n ≤ 29 → (passes m n = true ↔ n ≤ m + 2)) ∧
  passes 9 10 = true ∧ passes 8 9 = false ∧ passes 18 20 = true ∧ passes 17 19 = false ∧ passes 0 1 = false ∧
  passes 1 1 = true

/-- What the spec derives from R152 to R154 under R157, its own inference: a candidate with no 0x20 is accepted
exactly when its one token, folded, is in the dictionary; and the scan of the empty ciphertext passes at 1 exactly
when the dictionary holds the empty text. -/
def Obligations.SingleTokenMustMatch : Prop :=
  (∀ (dict : Text → Bool) (cand : Text), 0x20#32 ∉ cand → (accepts dict cand = true ↔ dict (lowerFold cand) = true)) ∧
  (∀ dict : Text → Bool, (dict [] = true → scan dict [] = .found 1 []) ∧ (dict [] = false → scan dict [] = .noMatch))

/-- R154, R155: SCAN finds exactly the smallest passing shift of 1 to 25, with its candidate, and answers NOMATCH exactly
when none passes. -/
def Obligations.ScanFindsSmallestPassingShift : Prop :=
  ∀ (dict : Text → Bool) (ct : Text),
    (∀ (s : Nat) (cand : Text), scan dict ct = .found s cand ↔
      1 ≤ s ∧ s ≤ 25 ∧ cand = tshift ct s .bwd ∧ passes (matchedCount dict cand) (wordCount cand) = true ∧
      ∀ s' : Nat, 1 ≤ s' → s' < s →
        passes (matchedCount dict (tshift ct s' .bwd)) (wordCount (tshift ct s' .bwd)) = false) ∧
    (scan dict ct = .noMatch ↔ ∀ s : Nat, 1 ≤ s → s ≤ 25 →
      passes (matchedCount dict (tshift ct s .bwd)) (wordCount (tshift ct s .bwd)) = false)

/-- R154: a ciphertext with no letters is found at 1, unchanged, or not at all. -/
def Obligations.LetterlessTextFoundAtOne : Prop :=
  ∀ (dict : Text → Bool) (ct : Text), (∀ c ∈ ct, isLetter c = false) →
    (accepts dict ct = true → scan dict ct = .found 1 ct) ∧ (accepts dict ct = false → scan dict ct = .noMatch)

/-- What the spec derives from R150 and R151 under R163, its own inference: no query holds an uppercase letter, so an
entry that holds one is never matched: leaving such entries out of the dictionary changes no query; an entry without
one is matched by itself. -/
def Obligations.UppercaseEntriesNeverMatch : Prop :=
  (∀ (w : Text), ∀ c ∈ lowerFold w, isUpper c = false) ∧
  (∀ (entries : List Text) (w : Text), (DictPort.loaded entries).contains (lowerFold w) =
    (DictPort.loaded (entries.filter fun e => e.all fun c => !isUpper c)).contains (lowerFold w)) ∧
  (∀ (entries : List Text), ∀ e ∈ entries, (∀ c ∈ e, isUpper c = false) →
    (DictPort.loaded entries).contains (lowerFold e) = true)

/-! Commands: what each one does where it executes (spec/44_commands.md). -/

/-- R182: DEC. -/
def Obligations.DecCompletes : Prop :=
  ∀ s : State, s.lengthOk → ∃ t : State, exec .dec s = .next t ∧
    t.status = 0x1#32 ∧ t.shiftUsed = s.shift ∧ t.outLen = s.inLen ∧
    s.OutWritten t (tshift s.inputText s.shift.toInt .bwd) ∧ s.InputsKept t ∧ t.rng = s.rng ∧ t.dict = s.dict

/-- R183: ENC. -/
def Obligations.EncCompletes : Prop :=
  ∀ s : State, s.lengthOk → ∃ t : State, exec .enc s = .next t ∧
    t.status = 0x5#32 ∧ t.shiftUsed = s.shift ∧ t.outLen = s.inLen ∧
    s.OutWritten t (tshift s.inputText s.shift.toInt .fwd) ∧ s.InputsKept t ∧ t.rng = s.rng ∧ t.dict = s.dict

/-- R184: DECA, FOUND. -/
def Obligations.DecaFoundCompletes : Prop :=
  ∀ (s : State) (k : Nat) (cand : Text), s.lengthOk → scan s.dict.contains s.inputText = .found k cand →
    ∃ t : State, exec .deca s = .next t ∧
      t.status = 0x9#32 ∧ t.shiftUsed = BitVec.ofNat 32 k ∧ 1 ≤ t.shiftUsed.toInt ∧ t.shiftUsed.toInt ≤ 25 ∧
      t.outLen = s.inLen ∧ s.OutWritten t cand ∧ s.InputsKept t ∧ t.rng = s.rng

/-- R184: DECA, NOMATCH: OUT_BUF is unchanged. -/
def Obligations.DecaNoMatchCompletes : Prop :=
  ∀ s : State, s.lengthOk → scan s.dict.contains s.inputText = .noMatch →
    ∃ t : State, exec .deca s = .next t ∧
      t.status = 0xA#32 ∧ t.shiftUsed = 0#32 ∧ t.outLen = 0#32 ∧
      s.OutWritten t [] ∧ s.InputsKept t ∧ t.rng = s.rng

/-- R185, R131, R135: ENCR takes exactly one draw, a shift of 1 to 24, also for the empty text. Which draw a port with
nothing injected delivers is a free value (log entry 4). -/
def Obligations.EncrCompletes : Prop :=
  ∀ s : State, s.lengthOk → ∃ (t : State) (r : Int), exec .encr s = .next t ∧
    1 ≤ r ∧ r ≤ 24 ∧ t.status = 0xD#32 ∧ t.shiftUsed = BitVec.ofInt 32 r ∧ t.shiftUsed.toInt = r ∧ t.outLen = s.inLen ∧
    s.OutWritten t (tshift s.inputText r .fwd) ∧ s.InputsKept t ∧ t.dict = s.dict ∧
    (∀ (d : Draw) (ds : List Draw), s.rng.injected = d :: ds →
      r = d.val + 1 ∧ t.rng = { injected := ds, taken := s.rng.taken }) ∧
    (s.rng.injected = [] → t.rng = { injected := [], taken := s.rng.taken + 1 })

/-- R186: RSVD writes STATUS and nothing else. -/
def Obligations.RsvdCompletes : Prop :=
  ∀ (w : Cell) (s : State), exec (.rsvd w) s = .next { s with status := 0x13#32 }

/-- R187: a legal command issued while IN_LEN exceeds MAX_TEXT_LEN writes STATUS and nothing else: no draw, no query. -/
def Obligations.OverlongInputIsRejected : Prop :=
  ∀ (s : State) (i : Instr), s.maxLen.toNat < s.inLen.toNat → i ∈ [Instr.dec, .enc, .deca, .encr] →
    exec i s = .next { s with status := 0x23#32 }

/-- R189: a reserved word is reported as RSVD_CMD whatever IN_LEN holds; only a legal word is checked for the length. -/
def Obligations.ReservedWordCheckedFirst : Prop :=
  ∀ (s : State) (w : Cell), ∃ t : State, exec (decode w) s = .next t ∧
    (4 ≤ w.toNat → t.status = 0x13#32) ∧
    (w.toNat < 4 → s.maxLen.toNat < s.inLen.toNat → t.status = 0x23#32) ∧
    (w.toNat < 4 → s.inLen.toNat ≤ s.maxLen.toNat →
      t.status = 0x1#32 ∨ t.status = 0x5#32 ∨ t.status = 0x9#32 ∨ t.status = 0xA#32 ∨ t.status = 0xD#32)

/-- R191: every command, in every state, completes with exactly one of OK, NOMATCH and ERROR. -/
def Obligations.EveryCommandCompletes : Prop :=
  ∀ (i : Instr) (s : State), ∃ t : State, exec i s = .next t ∧
    (statusResult t.status = 1#2 ∨ statusResult t.status = 2#2 ∨ statusResult t.status = 3#2)

/-- R185, R96: ENCR never produces the identity on a text that has a letter. -/
def Obligations.EncrMovesEveryLetter : Prop :=
  ∀ s t : State, s.lengthOk → exec .encr s = .next t →
    ∀ i : Nat, i < s.inLen.toNat → isLetter (s.inCell i) = true → t.outCell i ≠ s.inCell i

/-- R183, R116: the output of ENC, copied by the host to IN and decrypted with the same SHIFT, is the text. -/
def Obligations.DecUndoesEnc : Prop :=
  ∀ s t u : State, s.lengthOk → exec .enc s = .next t →
    u.shift = s.shift → u.inLen = t.outLen → u.lengthOk → (∀ i, i < t.outLen.toNat → u.inCell i = t.outCell i) →
    ∃ v : State, exec .dec u = .next v ∧ v.outLen = s.inLen ∧ ∀ i, i < s.inLen.toNat → v.outCell i = s.inCell i

/-- R185, R182: the output of ENCR, copied by the host to IN and decrypted with the SHIFT_USED it reported, is the
text, for every draw. -/
def Obligations.DecUndoesEncrWithReportedShift : Prop :=
  ∀ s t u : State, s.lengthOk → exec .encr s = .next t →
    u.shift = t.shiftUsed → u.inLen = t.outLen → u.lengthOk → (∀ i, i < t.outLen.toNat → u.inCell i = t.outCell i) →
    ∃ v : State, exec .dec u = .next v ∧ v.outLen = s.inLen ∧ ∀ i, i < s.inLen.toNat → v.outCell i = s.inCell i

/-! Commands: frames and independence. -/

/-- R188, R33: no command writes SHIFT, IN_LEN, IN_BUF or MAX_LEN, or OUT_BUF from IN_LEN on, and none changes a loaded
dictionary. Of the dictionary R188 is stated only where one is loaded, since the model's unconstrained oracle becomes
another one after a DECA that scans (log entry 5, the model's choice). That the reset count, the host's queue and the
responses stay is the model's own (log entries 1, 6 and 7). -/
def Obligations.CommandsKeepInputs : Prop :=
  ∀ (i : Instr) (s t : State), exec i s = .next t →
    s.InputsKept t ∧ (∀ j, s.inLen.toNat ≤ j → t.outCell j = s.outCell j) ∧
    (∀ entries, s.dict = .loaded entries → t.dict = .loaded entries)

/-- R181, R63: a command that ends in NOMATCH or ERROR writes no buffer cell, and one that ends in ERROR writes STATUS
alone. -/
def Obligations.RejectedCommandsWriteNoPayload : Prop :=
  ∀ (i : Instr) (s t : State), exec i s = .next t →
    (statusResult t.status = 2#2 → (∀ j, t.outCell j = s.outCell j) ∧ t.shiftUsed = 0#32 ∧ t.outLen = 0#32) ∧
    (statusResult t.status = 3#2 → t = { s with status := t.status })

/-- R133: DEC, ENC, DECA, RSVD and every rejected command take no draw; ENCR and DECA do not read SHIFT; no command
writes SHIFT. -/
def Obligations.OnlyEncrDrawsAndAutomaticIgnoresShift : Prop :=
  (∀ (i : Instr) (s t : State), exec i s = .next t → i ≠ .encr ∨ statusResult t.status = 3#2 → t.rng = s.rng) ∧
  (∀ (s t : State) (v : Cell), exec .encr s = .next t → exec .encr { s with shift := v } = .next { t with shift := v }) ∧
  (∀ (s t : State) (v : Cell), exec .deca s = .next t → exec .deca { s with shift := v } = .next { t with shift := v }) ∧
  (∀ (i : Instr) (s t : State), exec i s = .next t → t.shift = s.shift)

/-- R28: MODE_ENC and MODE_AUTO after a command: bits 0 and 1 of its word after OK or NOMATCH, 0 after ERROR; and 0 after
reset. -/
def Obligations.ModeBitsEchoTheCommand : Prop :=
  (∀ (i : Instr) (s t : State), exec i s = .next t →
    (statusResult t.status = 1#2 ∨ statusResult t.status = 2#2 →
      t.status.getLsbD 2 = (encode i).getLsbD 0 ∧ t.status.getLsbD 3 = (encode i).getLsbD 1) ∧
    (statusResult t.status = 3#2 → t.status.getLsbD 2 = false ∧ t.status.getLsbD 3 = false)) ∧
  State.reset.status.getLsbD 2 = false ∧ State.reset.status.getLsbD 3 = false

/-- R29: ERRCODE after a command: RSVD_CMD exactly for a reserved word, LEN_RANGE exactly for a legal word with IN_LEN
over MAX_TEXT_LEN, else NONE; and NONE after reset. -/
def Obligations.ErrCodeNamesTheReason : Prop :=
  (∀ (w : Cell) (s t : State), exec (decode w) s = .next t →
    (statusErrCode t.status = 1#4 ↔ w.extractLsb' 2 30 ≠ 0#30) ∧
    (statusErrCode t.status = 2#4 ↔ w.extractLsb' 2 30 = 0#30 ∧ s.maxLen.toNat < s.inLen.toNat) ∧
    (statusErrCode t.status = 0#4 ↔ statusResult t.status ≠ 3#2) ∧ (statusErrCode t.status).toNat ≤ 2) ∧
  statusErrCode State.reset.status = 0#4

/-- R40: only a command writes STATUS (and reset clears it), and no command reads it. -/
def Obligations.OnlyCommandsWriteStatus : Prop :=
  (∀ (s t : State), step s = .next t → t.status ≠ s.status →
    ∃ rest, (∃ w, s.host = .wr .reg 0#32 w :: rest) ∨ s.host = .reset :: rest) ∧
  (∀ (i : Instr) (s : State) (v : Cell), exec i { s with status := v } = exec i s)

/-- R50, R51: SHIFT_USED, OUT_LEN and OUT_BUF change only by a command or a reset; SHIFT, IN_LEN and IN_BUF only by a
host write to them or a reset. -/
def Obligations.WhoWritesWhat : Prop :=
  ∀ (s t : State) (e : HostEvent) (rest : List HostEvent), s.host = e :: rest → step s = .next t → e ≠ .reset →
    ((∀ w, e ≠ .wr .reg 0#32 w) → t.shiftUsed = s.shiftUsed ∧ t.outLen = s.outLen ∧ ∀ j, t.outCell j = s.outCell j) ∧
    ((∀ v, e ≠ .wr .reg 1#32 v) → t.shift = s.shift) ∧
    ((∀ v, e ≠ .wr .reg 2#32 v) → t.inLen = s.inLen) ∧
    (∀ j : Nat, (∀ i v, e = .wr .inp i v → i.toNat ≠ j) → t.inCell j = s.inCell j) ∧
    t.host = rest

/-- R150 (the dictionary port is log entry 5): DECA depends on the dictionary's answers alone: with another dictionary
that answers every query the same, it leaves the same state but for the dictionary port. -/
def Obligations.DecaDependsOnAnswersOnly : Prop :=
  ∀ (s t : State) (d : DictPort), (∀ w, d.contains w = s.dict.contains w) → exec .deca s = .next t →
    ∃ d' : DictPort, exec .deca { s with dict := d } = .next { t with dict := d' }

/-- R63 (unwritten cells are log entry 2): a command reads no cell of IN_BUF from IN_LEN on: with any other contents
there, it leaves the same state but for IN_BUF. -/
def Obligations.CommandsReadOnlyTheText : Prop :=
  ∀ (i : Instr) (s t : State) (m : Memory),
    (∀ j, j < s.inLen.toNat → State.inCell { s with inBuf := m } j = s.inCell j) →
    exec i s = .next t → exec i { s with inBuf := m } = .next { t with inBuf := m }

/-! The invariant. -/

/-- The invariant holds after reset (R39, R4; the canonical form of the buffers is log entry 2). -/
def Obligations.InvAtReset : Prop := State.reset.Inv

/-- Every step keeps the invariant: buffers in canonical form, STATUS legal with its reserved bits 0, OUT_LEN within
MAX_TEXT_LEN, and SHIFT_USED in the range that the outcome promises (R4, R30 to R32, R36, R135, R181). -/
def Obligations.StepKeepsInv : Prop :=
  ∀ s t : State, s.Inv → step s = .next t → t.Inv

/-- R30: the reserved bits [31:8] of STATUS are 0 after reset, and every step that finds them 0 leaves them 0. -/
def Obligations.StatusReservedBitsStayZero : Prop :=
  statusReserved State.reset.status = 0#24 ∧
  ∀ s t : State, statusReserved s.status = 0#24 → step s = .next t → statusReserved t.status = 0#24
end

