-- ==== Sys2Proof/Laws/State.lean ====
section
/-!
SUPPORT. What every named update of the state does to every field: one lemma per field and update, each true by
definition, so that no proof unfolds a record update.
-/

namespace Sys2Proof.Machine

/-! Fields after `State.writeOut`: the buffer write of a command. -/

@[simp] theorem State.writeOut_shift (s : State) (t : Text) : (s.writeOut t).shift = s.shift := rfl
@[simp] theorem State.writeOut_inLen (s : State) (t : Text) : (s.writeOut t).inLen = s.inLen := rfl
@[simp] theorem State.writeOut_status (s : State) (t : Text) : (s.writeOut t).status = s.status := rfl
@[simp] theorem State.writeOut_shiftUsed (s : State) (t : Text) : (s.writeOut t).shiftUsed = s.shiftUsed := rfl
@[simp] theorem State.writeOut_outLen (s : State) (t : Text) : (s.writeOut t).outLen = s.outLen := rfl
@[simp] theorem State.writeOut_maxLen (s : State) (t : Text) : (s.writeOut t).maxLen = s.maxLen := rfl
@[simp] theorem State.writeOut_inBuf (s : State) (t : Text) : (s.writeOut t).inBuf = s.inBuf := rfl
@[simp] theorem State.writeOut_outBuf (s : State) (t : Text) : (s.writeOut t).outBuf = s.outBuf.writeText 0 t := rfl
@[simp] theorem State.writeOut_resets (s : State) (t : Text) : (s.writeOut t).resets = s.resets := rfl
@[simp] theorem State.writeOut_rng (s : State) (t : Text) : (s.writeOut t).rng = s.rng := rfl
@[simp] theorem State.writeOut_dict (s : State) (t : Text) : (s.writeOut t).dict = s.dict := rfl
@[simp] theorem State.writeOut_host (s : State) (t : Text) : (s.writeOut t).host = s.host := rfl
@[simp] theorem State.writeOut_responses (s : State) (t : Text) : (s.writeOut t).responses = s.responses := rfl

/-! Fields after `State.writeIn`: a host write to IN. -/

@[simp] theorem State.writeIn_shift (s : State) (i : Nat) (v : Cell) : (s.writeIn i v).shift = s.shift := rfl
@[simp] theorem State.writeIn_inLen (s : State) (i : Nat) (v : Cell) : (s.writeIn i v).inLen = s.inLen := rfl
@[simp] theorem State.writeIn_status (s : State) (i : Nat) (v : Cell) : (s.writeIn i v).status = s.status := rfl
@[simp] theorem State.writeIn_shiftUsed (s : State) (i : Nat) (v : Cell) :
    (s.writeIn i v).shiftUsed = s.shiftUsed := rfl
@[simp] theorem State.writeIn_outLen (s : State) (i : Nat) (v : Cell) : (s.writeIn i v).outLen = s.outLen := rfl
@[simp] theorem State.writeIn_maxLen (s : State) (i : Nat) (v : Cell) : (s.writeIn i v).maxLen = s.maxLen := rfl
@[simp] theorem State.writeIn_inBuf (s : State) (i : Nat) (v : Cell) : (s.writeIn i v).inBuf = s.inBuf.write i v := rfl
@[simp] theorem State.writeIn_outBuf (s : State) (i : Nat) (v : Cell) : (s.writeIn i v).outBuf = s.outBuf := rfl
@[simp] theorem State.writeIn_resets (s : State) (i : Nat) (v : Cell) : (s.writeIn i v).resets = s.resets := rfl
@[simp] theorem State.writeIn_rng (s : State) (i : Nat) (v : Cell) : (s.writeIn i v).rng = s.rng := rfl
@[simp] theorem State.writeIn_dict (s : State) (i : Nat) (v : Cell) : (s.writeIn i v).dict = s.dict := rfl
@[simp] theorem State.writeIn_host (s : State) (i : Nat) (v : Cell) : (s.writeIn i v).host = s.host := rfl
@[simp] theorem State.writeIn_responses (s : State) (i : Nat) (v : Cell) :
    (s.writeIn i v).responses = s.responses := rfl

/-! Fields after `State.setRng`: the random-source port. -/

@[simp] theorem State.setRng_shift (s : State) (p : RandomPort) : (s.setRng p).shift = s.shift := rfl
@[simp] theorem State.setRng_inLen (s : State) (p : RandomPort) : (s.setRng p).inLen = s.inLen := rfl
@[simp] theorem State.setRng_status (s : State) (p : RandomPort) : (s.setRng p).status = s.status := rfl
@[simp] theorem State.setRng_shiftUsed (s : State) (p : RandomPort) : (s.setRng p).shiftUsed = s.shiftUsed := rfl
@[simp] theorem State.setRng_outLen (s : State) (p : RandomPort) : (s.setRng p).outLen = s.outLen := rfl
@[simp] theorem State.setRng_maxLen (s : State) (p : RandomPort) : (s.setRng p).maxLen = s.maxLen := rfl
@[simp] theorem State.setRng_inBuf (s : State) (p : RandomPort) : (s.setRng p).inBuf = s.inBuf := rfl
@[simp] theorem State.setRng_outBuf (s : State) (p : RandomPort) : (s.setRng p).outBuf = s.outBuf := rfl
@[simp] theorem State.setRng_resets (s : State) (p : RandomPort) : (s.setRng p).resets = s.resets := rfl
@[simp] theorem State.setRng_rng (s : State) (p : RandomPort) : (s.setRng p).rng = p := rfl
@[simp] theorem State.setRng_dict (s : State) (p : RandomPort) : (s.setRng p).dict = s.dict := rfl
@[simp] theorem State.setRng_host (s : State) (p : RandomPort) : (s.setRng p).host = s.host := rfl
@[simp] theorem State.setRng_responses (s : State) (p : RandomPort) : (s.setRng p).responses = s.responses := rfl

/-! Fields after `State.setDict`: the dictionary port. -/

@[simp] theorem State.setDict_shift (s : State) (d : DictPort) : (s.setDict d).shift = s.shift := rfl
@[simp] theorem State.setDict_inLen (s : State) (d : DictPort) : (s.setDict d).inLen = s.inLen := rfl
@[simp] theorem State.setDict_status (s : State) (d : DictPort) : (s.setDict d).status = s.status := rfl
@[simp] theorem State.setDict_shiftUsed (s : State) (d : DictPort) : (s.setDict d).shiftUsed = s.shiftUsed := rfl
@[simp] theorem State.setDict_outLen (s : State) (d : DictPort) : (s.setDict d).outLen = s.outLen := rfl
@[simp] theorem State.setDict_maxLen (s : State) (d : DictPort) : (s.setDict d).maxLen = s.maxLen := rfl
@[simp] theorem State.setDict_inBuf (s : State) (d : DictPort) : (s.setDict d).inBuf = s.inBuf := rfl
@[simp] theorem State.setDict_outBuf (s : State) (d : DictPort) : (s.setDict d).outBuf = s.outBuf := rfl
@[simp] theorem State.setDict_resets (s : State) (d : DictPort) : (s.setDict d).resets = s.resets := rfl
@[simp] theorem State.setDict_rng (s : State) (d : DictPort) : (s.setDict d).rng = s.rng := rfl
@[simp] theorem State.setDict_dict (s : State) (d : DictPort) : (s.setDict d).dict = d := rfl
@[simp] theorem State.setDict_host (s : State) (d : DictPort) : (s.setDict d).host = s.host := rfl
@[simp] theorem State.setDict_responses (s : State) (d : DictPort) : (s.setDict d).responses = s.responses := rfl

/-! Fields after `State.setHost`: the host's queue. -/

@[simp] theorem State.setHost_shift (s : State) (es : List HostEvent) : (s.setHost es).shift = s.shift := rfl
@[simp] theorem State.setHost_inLen (s : State) (es : List HostEvent) : (s.setHost es).inLen = s.inLen := rfl
@[simp] theorem State.setHost_status (s : State) (es : List HostEvent) : (s.setHost es).status = s.status := rfl
@[simp] theorem State.setHost_shiftUsed (s : State) (es : List HostEvent) :
    (s.setHost es).shiftUsed = s.shiftUsed := rfl
@[simp] theorem State.setHost_outLen (s : State) (es : List HostEvent) : (s.setHost es).outLen = s.outLen := rfl
@[simp] theorem State.setHost_maxLen (s : State) (es : List HostEvent) : (s.setHost es).maxLen = s.maxLen := rfl
@[simp] theorem State.setHost_inBuf (s : State) (es : List HostEvent) : (s.setHost es).inBuf = s.inBuf := rfl
@[simp] theorem State.setHost_outBuf (s : State) (es : List HostEvent) : (s.setHost es).outBuf = s.outBuf := rfl
@[simp] theorem State.setHost_resets (s : State) (es : List HostEvent) : (s.setHost es).resets = s.resets := rfl
@[simp] theorem State.setHost_rng (s : State) (es : List HostEvent) : (s.setHost es).rng = s.rng := rfl
@[simp] theorem State.setHost_dict (s : State) (es : List HostEvent) : (s.setHost es).dict = s.dict := rfl
@[simp] theorem State.setHost_host (s : State) (es : List HostEvent) : (s.setHost es).host = es := rfl
@[simp] theorem State.setHost_responses (s : State) (es : List HostEvent) :
    (s.setHost es).responses = s.responses := rfl

/-! Fields after `State.respond`: a read's response. -/

@[simp] theorem State.respond_shift (s : State) (v : Cell) : (s.respond v).shift = s.shift := rfl
@[simp] theorem State.respond_inLen (s : State) (v : Cell) : (s.respond v).inLen = s.inLen := rfl
@[simp] theorem State.respond_status (s : State) (v : Cell) : (s.respond v).status = s.status := rfl
@[simp] theorem State.respond_shiftUsed (s : State) (v : Cell) : (s.respond v).shiftUsed = s.shiftUsed := rfl
@[simp] theorem State.respond_outLen (s : State) (v : Cell) : (s.respond v).outLen = s.outLen := rfl
@[simp] theorem State.respond_maxLen (s : State) (v : Cell) : (s.respond v).maxLen = s.maxLen := rfl
@[simp] theorem State.respond_inBuf (s : State) (v : Cell) : (s.respond v).inBuf = s.inBuf := rfl
@[simp] theorem State.respond_outBuf (s : State) (v : Cell) : (s.respond v).outBuf = s.outBuf := rfl
@[simp] theorem State.respond_resets (s : State) (v : Cell) : (s.respond v).resets = s.resets := rfl
@[simp] theorem State.respond_rng (s : State) (v : Cell) : (s.respond v).rng = s.rng := rfl
@[simp] theorem State.respond_dict (s : State) (v : Cell) : (s.respond v).dict = s.dict := rfl
@[simp] theorem State.respond_host (s : State) (v : Cell) : (s.respond v).host = s.host := rfl
@[simp] theorem State.respond_responses (s : State) (v : Cell) : (s.respond v).responses = s.responses ++ [v] := rfl

/-! Fields after `State.resetEvent`: the reset event. -/

@[simp] theorem State.resetEvent_shift (s : State) : s.resetEvent.shift = 0#32 := rfl
@[simp] theorem State.resetEvent_inLen (s : State) : s.resetEvent.inLen = 0#32 := rfl
@[simp] theorem State.resetEvent_status (s : State) : s.resetEvent.status = 0#32 := rfl
@[simp] theorem State.resetEvent_shiftUsed (s : State) : s.resetEvent.shiftUsed = 0#32 := rfl
@[simp] theorem State.resetEvent_outLen (s : State) : s.resetEvent.outLen = 0#32 := rfl
@[simp] theorem State.resetEvent_maxLen (s : State) : s.resetEvent.maxLen = s.maxLen := rfl
@[simp] theorem State.resetEvent_inBuf (s : State) : s.resetEvent.inBuf = [] := rfl
@[simp] theorem State.resetEvent_outBuf (s : State) : s.resetEvent.outBuf = [] := rfl
@[simp] theorem State.resetEvent_resets (s : State) : s.resetEvent.resets = s.resets + 1 := rfl
@[simp] theorem State.resetEvent_rng (s : State) : s.resetEvent.rng = s.rng := rfl
@[simp] theorem State.resetEvent_dict (s : State) : s.resetEvent.dict = s.dict := rfl
@[simp] theorem State.resetEvent_host (s : State) : s.resetEvent.host = s.host := rfl
@[simp] theorem State.resetEvent_responses (s : State) : s.resetEvent.responses = s.responses := rfl

/-! Fields after `State.completeOk`: `complete_ok`. -/

@[simp] theorem State.completeOk_shift (s : State) (w : Cell) (k : Int) (t : Text) :
    (s.completeOk w k t).shift = s.shift := rfl
@[simp] theorem State.completeOk_inLen (s : State) (w : Cell) (k : Int) (t : Text) :
    (s.completeOk w k t).inLen = s.inLen := rfl
@[simp] theorem State.completeOk_status (s : State) (w : Cell) (k : Int) (t : Text) :
    (s.completeOk w k t).status = statusWord .ok (encBit w) (autoBit w) .none := rfl
@[simp] theorem State.completeOk_shiftUsed (s : State) (w : Cell) (k : Int) (t : Text) :
    (s.completeOk w k t).shiftUsed = BitVec.ofInt 32 k := rfl
@[simp] theorem State.completeOk_outLen (s : State) (w : Cell) (k : Int) (t : Text) :
    (s.completeOk w k t).outLen = BitVec.ofNat 32 t.length := rfl
@[simp] theorem State.completeOk_maxLen (s : State) (w : Cell) (k : Int) (t : Text) :
    (s.completeOk w k t).maxLen = s.maxLen := rfl
@[simp] theorem State.completeOk_inBuf (s : State) (w : Cell) (k : Int) (t : Text) :
    (s.completeOk w k t).inBuf = s.inBuf := rfl
@[simp] theorem State.completeOk_outBuf (s : State) (w : Cell) (k : Int) (t : Text) :
    (s.completeOk w k t).outBuf = s.outBuf.writeText 0 t := rfl
@[simp] theorem State.completeOk_resets (s : State) (w : Cell) (k : Int) (t : Text) :
    (s.completeOk w k t).resets = s.resets := rfl
@[simp] theorem State.completeOk_rng (s : State) (w : Cell) (k : Int) (t : Text) :
    (s.completeOk w k t).rng = s.rng := rfl
@[simp] theorem State.completeOk_dict (s : State) (w : Cell) (k : Int) (t : Text) :
    (s.completeOk w k t).dict = s.dict := rfl
@[simp] theorem State.completeOk_host (s : State) (w : Cell) (k : Int) (t : Text) :
    (s.completeOk w k t).host = s.host := rfl
@[simp] theorem State.completeOk_responses (s : State) (w : Cell) (k : Int) (t : Text) :
    (s.completeOk w k t).responses = s.responses := rfl

/-! Fields after `State.completeNoMatch`: `complete_nomatch`. -/

@[simp] theorem State.completeNoMatch_shift (s : State) : s.completeNoMatch.shift = s.shift := rfl
@[simp] theorem State.completeNoMatch_inLen (s : State) : s.completeNoMatch.inLen = s.inLen := rfl
@[simp] theorem State.completeNoMatch_status (s : State) :
    s.completeNoMatch.status = statusWord .noMatch false true .none := rfl
@[simp] theorem State.completeNoMatch_shiftUsed (s : State) : s.completeNoMatch.shiftUsed = 0#32 := rfl
@[simp] theorem State.completeNoMatch_outLen (s : State) : s.completeNoMatch.outLen = 0#32 := rfl
@[simp] theorem State.completeNoMatch_maxLen (s : State) : s.completeNoMatch.maxLen = s.maxLen := rfl
@[simp] theorem State.completeNoMatch_inBuf (s : State) : s.completeNoMatch.inBuf = s.inBuf := rfl
@[simp] theorem State.completeNoMatch_outBuf (s : State) : s.completeNoMatch.outBuf = s.outBuf := rfl
@[simp] theorem State.completeNoMatch_resets (s : State) : s.completeNoMatch.resets = s.resets := rfl
@[simp] theorem State.completeNoMatch_rng (s : State) : s.completeNoMatch.rng = s.rng := rfl
@[simp] theorem State.completeNoMatch_dict (s : State) : s.completeNoMatch.dict = s.dict := rfl
@[simp] theorem State.completeNoMatch_host (s : State) : s.completeNoMatch.host = s.host := rfl
@[simp] theorem State.completeNoMatch_responses (s : State) : s.completeNoMatch.responses = s.responses := rfl

/-! Fields after `State.completeError`: `complete_error`. -/

@[simp] theorem State.completeError_shift (s : State) (e : ErrCode) : (s.completeError e).shift = s.shift := rfl
@[simp] theorem State.completeError_inLen (s : State) (e : ErrCode) : (s.completeError e).inLen = s.inLen := rfl
@[simp] theorem State.completeError_status (s : State) (e : ErrCode) :
    (s.completeError e).status = statusWord .error false false e := rfl
@[simp] theorem State.completeError_shiftUsed (s : State) (e : ErrCode) :
    (s.completeError e).shiftUsed = s.shiftUsed := rfl
@[simp] theorem State.completeError_outLen (s : State) (e : ErrCode) : (s.completeError e).outLen = s.outLen := rfl
@[simp] theorem State.completeError_maxLen (s : State) (e : ErrCode) : (s.completeError e).maxLen = s.maxLen := rfl
@[simp] theorem State.completeError_inBuf (s : State) (e : ErrCode) : (s.completeError e).inBuf = s.inBuf := rfl
@[simp] theorem State.completeError_outBuf (s : State) (e : ErrCode) : (s.completeError e).outBuf = s.outBuf := rfl
@[simp] theorem State.completeError_resets (s : State) (e : ErrCode) : (s.completeError e).resets = s.resets := rfl
@[simp] theorem State.completeError_rng (s : State) (e : ErrCode) : (s.completeError e).rng = s.rng := rfl
@[simp] theorem State.completeError_dict (s : State) (e : ErrCode) : (s.completeError e).dict = s.dict := rfl
@[simp] theorem State.completeError_host (s : State) (e : ErrCode) : (s.completeError e).host = s.host := rfl
@[simp] theorem State.completeError_responses (s : State) (e : ErrCode) :
    (s.completeError e).responses = s.responses := rfl

end Sys2Proof.Machine
end

