-- ==== Sys2Proof/Laws/Memory.lean ====
section
/-!
SUPPORT. The laws of the buffers: a read after a write, the other cells left alone, and the canonical form kept; then what
reading and writing a cell or a text does to the cells of a state.
-/

namespace Sys2Proof.Machine

@[simp] theorem Memory.lookup_nil (i : Nat) : Memory.lookup [] i = none := rfl

theorem Memory.lookup_cons (a : Nat) (v : Cell) (m : Memory) (i : Nat) :
    Memory.lookup ((a, v) :: m) i = if a = i then some v else m.lookup i := rfl

/-- A write gives, at every index, the cell written or what was there before. -/
theorem Memory.lookup_write (m : Memory) (i : Nat) (v : Cell) (j : Nat) :
    (m.write i v).lookup j = if j = i then some v else m.lookup j := by
  induction m with
  | nil =>
    simp only [Memory.write, Memory.lookup]
    split_ifs <;> first | rfl | omega
  | cons e m ih =>
    obtain ⟨a, u⟩ := e
    simp only [Memory.write]
    split
    · simp only [Memory.lookup_cons]
      split_ifs <;> first | rfl | omega
    · split
      · subst i
        simp only [Memory.lookup_cons]
        split_ifs <;> first | rfl | omega
      · simp only [Memory.lookup_cons, ih]
        split_ifs <;> first | rfl | omega

/-- A text write gives its own cells inside its range and what was there before outside. -/
theorem Memory.lookup_writeText (m : Memory) (i : Nat) (t : Text) (j : Nat) :
    (m.writeText i t).lookup j =
      if i ≤ j ∧ j < i + t.length then t[j - i]? else m.lookup j := by
  induction t generalizing m i with
  | nil =>
    rw [if_neg (by simp only [List.length_nil]; omega)]
    rfl
  | cons c cs ih =>
    simp only [Memory.writeText, ih, Memory.lookup_write, List.length_cons]
    by_cases h : j = i
    · subst h
      rw [if_neg (by omega), if_pos rfl, if_pos (by omega)]
      simp
    · by_cases h' : i + 1 ≤ j ∧ j < i + 1 + cs.length
      · rw [if_pos h', if_pos (by omega)]
        obtain ⟨k, rfl⟩ := Nat.exists_eq_add_of_le h'.1
        rw [Nat.add_sub_cancel_left, show i + 1 + k - i = k + 1 by omega, List.getElem?_cons_succ]
      · rw [if_neg h', if_neg h, if_neg (by omega)]

theorem Memory.mem_write (m : Memory) (i : Nat) (v : Cell) (e : Nat × Cell) (h : e ∈ m.write i v) :
    e = (i, v) ∨ e ∈ m := by
  induction m with
  | nil => exact .inl (by simpa [Memory.write] using h)
  | cons x m ih =>
    obtain ⟨a, u⟩ := x
    simp only [Memory.write] at h
    split at h
    · simpa using h
    · split at h
      · rcases List.mem_cons.1 h with h | h
        · exact .inl h
        · exact .inr (List.mem_cons_of_mem _ h)
      · rcases List.mem_cons.1 h with h | h
        · exact .inr (h ▸ List.mem_cons_self)
        · exact (ih h).imp_right (List.mem_cons_of_mem _)

theorem Memory.rising_write (m : Memory) (i : Nat) (v : Cell) (h : (m.map Prod.fst).Pairwise (· < ·)) :
    ((m.write i v).map Prod.fst).Pairwise (· < ·) := by
  induction m with
  | nil => simp [Memory.write]
  | cons x m ih =>
    obtain ⟨a, u⟩ := x
    simp only [List.map_cons, List.pairwise_cons] at h
    simp only [Memory.write]
    split
    · rename_i hlt
      simp only [List.map_cons, List.pairwise_cons, List.mem_cons]
      refine ⟨?_, h⟩
      rintro b (rfl | hb)
      · exact hlt
      · exact hlt.trans (h.1 b hb)
    · split
      · rename_i heq
        subst heq
        simpa using h
      · simp only [List.map_cons, List.pairwise_cons]
        refine ⟨fun b hb => ?_, ih h.2⟩
        obtain ⟨e, he, rfl⟩ := List.mem_map.1 hb
        rcases Memory.mem_write m i v e he with rfl | he
        · dsimp only
          omega
        · exact h.1 _ (List.mem_map_of_mem he)

/-- A write inside the buffer keeps the canonical form. -/
theorem Memory.wf_write {cap : Nat} {m : Memory} (h : m.wf cap) {i : Nat} (v : Cell) (hi : i < cap) :
    (m.write i v).wf cap := by
  refine ⟨Memory.rising_write m i v h.1, fun e he => ?_⟩
  rcases Memory.mem_write m i v e he with rfl | he
  · exact hi
  · exact h.2 e he

/-- A text write inside the buffer keeps the canonical form. -/
theorem Memory.wf_writeText {cap : Nat} {m : Memory} (h : m.wf cap) {i : Nat} (t : Text) (hi : i + t.length ≤ cap) :
    (m.writeText i t).wf cap := by
  induction t generalizing m i with
  | nil => exact h
  | cons c cs ih =>
    simp only [List.length_cons] at hi
    exact ih (Memory.wf_write h c (by omega)) (by omega)

/-- The memory of the state after reset is in canonical form. -/
theorem Memory.wf_reset (cap : Nat) : State.reset.inBuf.wf cap ∧ State.reset.outBuf.wf cap := by
  simp [State.reset, Memory.wf]

/-- In canonical form, memories with the same written cells are the same data. -/
theorem Memory.eq_of_lookup {cap : Nat} {m m' : Memory} (h : m.wf cap) (h' : m'.wf cap)
    (same : ∀ i, m.lookup i = m'.lookup i) : m = m' := by
  have absent : ∀ (n : Memory) (a : Nat), (∀ b ∈ n.map Prod.fst, a < b) → n.lookup a = none := by
    intro n
    induction n with
    | nil => intros; rfl
    | cons x n ih =>
      obtain ⟨b, v⟩ := x
      intro a ha
      simp only [List.map_cons, List.mem_cons, forall_eq_or_imp] at ha
      rw [Memory.lookup_cons, if_neg (by omega), ih a ha.2]
  have lower : ∀ (n : Memory) (a b : Nat) (v : Cell), a < b → (∀ c ∈ n.map Prod.fst, b < c) →
      Memory.lookup ((b, v) :: n) a = none := by
    intro n a b v hab hn
    rw [Memory.lookup_cons, if_neg (by omega), absent n a fun c hc => hab.trans (hn c hc)]
  have rising := h.1
  have rising' := h'.1
  clear h h'
  induction m generalizing m' with
  | nil =>
    cases m' with
    | nil => rfl
    | cons y m' => exact absurd (same y.1) (by obtain ⟨b, w⟩ := y; simp [Memory.lookup])
  | cons x m ih =>
    obtain ⟨a, v⟩ := x
    cases m' with
    | nil => exact absurd (same a) (by simp [Memory.lookup])
    | cons y m' =>
      obtain ⟨b, w⟩ := y
      simp only [List.map_cons, List.pairwise_cons] at rising rising'
      have hab : a = b := by
        rcases Nat.lt_trichotomy a b with hlt | heq | hgt
        · have := same a
          rw [lower m' a b w hlt rising'.1] at this
          simp [Memory.lookup] at this
        · exact heq
        · have := same b
          rw [lower m b a v hgt rising.1] at this
          simp [Memory.lookup] at this
      subst hab
      have hvw : v = w := by simpa [Memory.lookup] using same a
      subst hvw
      refine congrArg _ (ih (fun i => ?_) rising.2 rising'.2)
      have hi := same i
      rw [Memory.lookup_cons, Memory.lookup_cons] at hi
      by_cases hai : a = i
      · subst hai
        rw [absent m a rising.1, absent m' a rising'.1]
      · rwa [if_neg hai, if_neg hai] at hi

/-- IN cells after a host write to IN. -/
theorem State.inCell_writeIn (s : State) (i : Nat) (v : Cell) (j : Nat) :
    (s.writeIn i v).inCell j = if j = i then v else s.inCell j := by
  simp only [State.inCell, State.writeIn_inBuf, State.writeIn_resets, Memory.lookup_write]
  split <;> rfl

/-- OUT cells after a command has written a text. -/
theorem State.outCell_writeOut (s : State) (t : Text) (j : Nat) :
    (s.writeOut t).outCell j = if h : j < t.length then t[j] else s.outCell j := by
  simp only [State.outCell, State.writeOut_outBuf, State.writeOut_resets, Memory.lookup_writeText]
  by_cases h : j < t.length
  · simp [h]
  · simp [h]

@[simp] theorem State.readIn_length (s : State) (n : Nat) : (s.readIn n).length = n := by
  simp [State.readIn]

@[simp] theorem State.readIn_getElem (s : State) (n i : Nat) (h : i < (s.readIn n).length) :
    (s.readIn n)[i] = s.inCell i := by
  simp [State.readIn]

end Sys2Proof.Machine
end

