-- ==== Sys2Proof/Laws/Operations.lean ====
section
/-!
SUPPORT. One lemma for each shared operation, saying once what it does: STATUS words, the length check, the text operand,
registers by index, and the ports.
-/

namespace Sys2Proof.Machine

/-! STATUS (spec/44_commands.md rule R181). -/

@[simp] theorem statusWord_ok_dec : statusWord .ok (encBit (encode .dec)) (autoBit (encode .dec)) .none = 0x1#32 := by
  decide

@[simp] theorem statusWord_ok_enc : statusWord .ok (encBit (encode .enc)) (autoBit (encode .enc)) .none = 0x5#32 := by
  decide

@[simp] theorem statusWord_ok_deca : statusWord .ok (encBit (encode .deca)) (autoBit (encode .deca)) .none = 0x9#32 := by
  decide

@[simp] theorem statusWord_ok_encr : statusWord .ok (encBit (encode .encr)) (autoBit (encode .encr)) .none = 0xD#32 := by
  decide

@[simp] theorem statusWord_noMatch : statusWord .noMatch false true .none = 0xA#32 := by decide

@[simp] theorem statusWord_rsvdCmd : statusWord .error false false .rsvdCmd = 0x13#32 := by decide

@[simp] theorem statusWord_lenRange : statusWord .error false false .lenRange = 0x23#32 := by decide

/-! Directions (R71). -/

@[simp] theorem commandDirection_dec : commandDirection (encode .dec) = .bwd := by decide

@[simp] theorem commandDirection_enc : commandDirection (encode .enc) = .fwd := by decide

@[simp] theorem commandDirection_encr : commandDirection (encode .encr) = .fwd := by decide

/-! Operands. -/

@[simp] theorem State.inputText_length (s : State) : s.inputText.length = s.inLen.toNat := by
  simp [State.inputText, State.inputLength]

@[simp] theorem State.inputText_getElem (s : State) (i : Nat) (h : i < s.inputText.length) :
    s.inputText[i] = s.inCell i := by
  simp [State.inputText]

/-- A text of at most MAX_TEXT_LEN cells lets a command have its own effect (R180). -/
theorem State.lengthChecked_ok (s : State) (effect : Text → State) (h : s.inLen.toNat ≤ s.maxLen.toNat) :
    s.lengthChecked effect = effect s.inputText :=
  if_neg (Nat.not_lt.2 h)

/-- A longer one completes as LEN_RANGE (R187). -/
theorem State.lengthChecked_over (s : State) (effect : Text → State) (h : s.maxLen.toNat < s.inLen.toNat) :
    s.lengthChecked effect = s.completeError .lenRange :=
  if_pos h

/-- The length check: the command's own effect, or LEN_RANGE (R180, R187). -/
theorem State.lengthChecked_cases (s : State) (effect : Text → State) :
    (s.inLen.toNat ≤ s.maxLen.toNat ∧ s.lengthChecked effect = effect s.inputText) ∨
    (s.maxLen.toNat < s.inLen.toNat ∧ s.lengthChecked effect = s.completeError .lenRange) :=
  (Nat.lt_or_ge s.maxLen.toNat s.inLen.toNat).elim
    (fun h => .inr ⟨h, s.lengthChecked_over effect h⟩) (fun h => .inl ⟨h, s.lengthChecked_ok effect h⟩)

/-! Registers (R23, R34). -/

@[simp] theorem regAt_regIndex (r : Reg) : regAt (regIndex r) = some r := by
  cases r <;> rfl

/-- An index names the register whose index it is, or, from 7 up, none. -/
theorem regAt_cases (i : Cell) : (∃ r, i = regIndex r ∧ regAt i = some r) ∨ (7 ≤ i.toNat ∧ regAt i = none) := by
  have eq : ∀ r : Reg, i.toNat = (regIndex r).toNat → i = regIndex r ∧ regAt i = some r := by
    intro r h
    have hi : i = regIndex r := BitVec.eq_of_toNat_eq h
    exact ⟨hi, hi ▸ regAt_regIndex r⟩
  by_cases h : 7 ≤ i.toNat
  · refine .inr ⟨h, ?_⟩
    simp only [regAt]
    split <;> first | omega | rfl
  · have : i.toNat = 0 ∨ i.toNat = 1 ∨ i.toNat = 2 ∨ i.toNat = 3 ∨ i.toNat = 4 ∨ i.toNat = 5 ∨ i.toNat = 6 := by omega
    rcases this with h | h | h | h | h | h | h
    · exact .inl ⟨.cmd, eq .cmd h⟩
    · exact .inl ⟨.shift, eq .shift h⟩
    · exact .inl ⟨.inLen, eq .inLen h⟩
    · exact .inl ⟨.status, eq .status h⟩
    · exact .inl ⟨.shiftUsed, eq .shiftUsed h⟩
    · exact .inl ⟨.outLen, eq .outLen h⟩
    · exact .inl ⟨.maxLen, eq .maxLen h⟩

/-! Ports (R132, R150). -/

/-- Every draw stands for a shift in 1 to 24. -/
theorem drawShift_range (d : Draw) : 1 ≤ drawShift d ∧ drawShift d ≤ 24 := by
  have := d.isLt
  simp only [drawShift, Config.randMin]
  omega

@[simp] theorem RandomPort.draw_injected (d : Draw) (ds : List Draw) (n : Nat) :
    RandomPort.draw { injected := d :: ds, taken := n } = (d, { injected := ds, taken := n }) := rfl

@[simp] theorem DictPort.contains_loaded (entries : List Text) (w : Text) :
    (DictPort.loaded entries).contains w = entries.contains w := rfl

@[simp] theorem DictPort.afterUse_loaded (entries : List Text) :
    (DictPort.loaded entries).afterUse = .loaded entries := rfl

/-! The host port (R52). -/

theorem State.hostRead_inp (s : State) {i : Cell} (h : i.toNat < s.maxLen.toNat) :
    s.hostRead .inp i = s.inCell i.toNat :=
  if_pos h

theorem State.hostRead_inp_outside (s : State) {i : Cell} (h : s.maxLen.toNat ≤ i.toNat) : s.hostRead .inp i = 0#32 :=
  if_neg (Nat.not_lt.2 h)

theorem State.hostRead_out (s : State) {i : Cell} (h : i.toNat < s.maxLen.toNat) :
    s.hostRead .out i = s.outCell i.toNat :=
  if_pos h

theorem State.hostRead_out_outside (s : State) {i : Cell} (h : s.maxLen.toNat ≤ i.toNat) : s.hostRead .out i = 0#32 :=
  if_neg (Nat.not_lt.2 h)

theorem State.hostRead_reg (s : State) (r : Reg) : s.hostRead .reg (regIndex r) = s.regRead r := by
  simp [State.hostRead]

theorem State.hostRead_reserved (s : State) {i : Cell} (h : 7 ≤ i.toNat) : s.hostRead .reg i = 0#32 := by
  rcases regAt_cases i with ⟨r, rfl, -⟩ | ⟨-, none⟩
  · cases r <;> simp [regIndex] at h
  · simp [State.hostRead, none]

theorem State.hostWrite_inp (s : State) {i : Cell} (v : Cell) (h : i.toNat < s.maxLen.toNat) :
    s.hostWrite .inp i v = .next (s.writeIn i.toNat v) :=
  congrArg Host.Outcome.next (if_pos h)

theorem State.hostWrite_inp_outside (s : State) {i : Cell} (v : Cell) (h : s.maxLen.toNat ≤ i.toNat) :
    s.hostWrite .inp i v = .next s :=
  congrArg Host.Outcome.next (if_neg (Nat.not_lt.2 h))

theorem State.hostWrite_reserved (s : State) {i : Cell} (v : Cell) (h : 7 ≤ i.toNat) :
    s.hostWrite .reg i v = .next s := by
  rcases regAt_cases i with ⟨r, rfl, -⟩ | ⟨-, none⟩
  · cases r <;> simp [regIndex] at h
  · simp [State.hostWrite, State.hostWriteReg, none]

/-- What a read returns does not depend on the host's queue. -/
@[simp] theorem State.hostRead_setHost (s : State) (es : List HostEvent) (space : Space) (i : Cell) :
    (s.setHost es).hostRead space i = s.hostRead space i := by
  cases space with
  | inp => rfl
  | out => rfl
  | reg =>
    rcases regAt_cases i with ⟨r, rfl, -⟩ | ⟨h, -⟩
    · simp only [State.hostRead_reg]
      cases r <;> rfl
    · simp only [State.hostRead_reserved _ h]

/-! The threshold and DECA's completion. -/

/-- Pass as the comparison of whole numbers that it is (R153). -/
theorem passes_iff (m n : Nat) : passes m n = true ↔ 9 * n ≤ 10 * m := decide_eq_true_iff

/-- How DECA completes: with the accepted candidate, or with no match (R184). -/
theorem State.completeScan_cases (s : State) (r : ScanResult) :
    (∃ k cand, r = .found k cand ∧ s.completeScan r = s.completeOk (encode .deca) k cand) ∨
    (r = .noMatch ∧ s.completeScan r = s.completeNoMatch) := by
  cases r with
  | found k cand => exact .inl ⟨k, cand, rfl, rfl⟩
  | noMatch => exact .inr ⟨rfl, rfl⟩

end Sys2Proof.Machine
end

