-- ==== Sys2Proof/Laws/HostProgram.lean ====
section
/-!
SUPPORT. The laws of host programs: an event does not read the queue of later ones, performing a list of events is what
the machine does with it in its queue, and a program's transactions are those of its parts.
-/

namespace Sys2Proof.Machine

/-- A command answers a next state, and the host's queue has no part in it. -/
theorem exec_setHost (i : Instr) (s : State) :
    ∃ t, exec i s = .next t ∧ ∀ es, exec i (s.setHost es) = .next (t.setHost es) := by
  cases i with
  | rsvd w => exact ⟨_, rfl, fun _ => rfl⟩
  | deca =>
    refine ⟨_, rfl, fun es => congrArg Host.Outcome.next ?_⟩
    simp only [State.lengthChecked]
    split
    · rename_i h; rw [if_pos (show s.inputLength > s.capacity from h)]; rfl
    · rename_i h
      rw [if_neg (show ¬ s.inputLength > s.capacity from h)]
      show ((s.setDict s.dict.afterUse).setHost es).completeScan (scan s.dict.contains s.inputText) = _
      cases scan s.dict.contains s.inputText <;> rfl
  | _ =>
    refine ⟨_, rfl, fun es => congrArg Host.Outcome.next ?_⟩
    simp only [State.lengthChecked]
    split
    · rename_i h; rw [if_pos (show s.inputLength > s.capacity from h)]; rfl
    · rename_i h; rw [if_neg (show ¬ s.inputLength > s.capacity from h)]; rfl

/-- An event answers a next state, and the queue of later events has no part in it. -/
theorem State.perform_setHost (s : State) (e : HostEvent) :
    ∃ t, s.perform e = .next t ∧ ∀ es, (s.setHost es).perform e = .next (t.setHost es) := by
  cases e with
  | rd space i => exact ⟨_, rfl, fun es => by simp only [State.perform, State.hostRead_setHost]; rfl⟩
  | reset => exact ⟨_, rfl, fun _ => rfl⟩
  | loadDict d => exact ⟨_, rfl, fun _ => rfl⟩
  | attachRandom p => exact ⟨_, rfl, fun _ => rfl⟩
  | wr space i v =>
    cases space with
    | out => exact ⟨_, rfl, fun _ => rfl⟩
    | inp =>
      refine ⟨_, rfl, fun es => congrArg Host.Outcome.next ?_⟩
      show (if i.toNat < s.capacity then (s.setHost es).writeIn i.toNat v else s.setHost es) = _
      split <;> rfl
    | reg =>
      rcases regAt_cases i with ⟨r, rfl, -⟩ | ⟨h, -⟩
      · simp only [State.perform, State.hostWrite, State.hostWriteReg, regAt_regIndex]
        cases r with
        | cmd => exact exec_setHost (decode v) s
        | _ => exact ⟨_, rfl, fun _ => rfl⟩
      · exact ⟨s, s.hostWrite_reserved v h, fun es => (s.setHost es).hostWrite_reserved v h⟩

@[simp] theorem State.performAll_nil (s : State) : s.performAll [] = s := rfl

theorem State.performAll_cons {s t : State} {e : HostEvent} (h : s.perform e = .next t) (es : List HostEvent) :
    s.performAll (e :: es) = t.performAll es := by
  simp only [State.performAll, h]

/-- Performing a list of events is performing its parts. -/
theorem State.performAll_append (s : State) (es es' : List HostEvent) :
    s.performAll (es ++ es') = (s.performAll es).performAll es' := by
  induction es generalizing s with
  | nil => rfl
  | cons e es ih =>
    obtain ⟨t, ht, -⟩ := s.perform_setHost e
    rw [List.cons_append, performAll_cons ht, performAll_cons ht, ih]

/-- The queue of later events has no part in performing a list of events. -/
theorem State.performAll_setHost (s : State) (es later : List HostEvent) :
    (s.setHost later).performAll es = (s.performAll es).setHost later := by
  induction es generalizing s with
  | nil => rfl
  | cons e es ih =>
    obtain ⟨t, ht, h⟩ := s.perform_setHost e
    rw [performAll_cons ht, performAll_cons (h later), ih]

/-- With a list of events at the front of its queue, the machine performs them, one a step. -/
theorem steps_performAll (es rest : List HostEvent) (s : State) (h : s.host = es ++ rest) :
    steps es.length s = .next ((s.performAll es).setHost rest) := by
  induction es generalizing s with
  | nil => subst h; rfl
  | cons e es ih =>
    obtain ⟨t, ht, hs⟩ := s.perform_setHost e
    have hstep : step s = .next (t.setHost (es ++ rest)) := by
      simp only [step, State.serve, h, List.cons_append]
      exact hs _
    simp only [List.length_cons, steps, hstep]
    rw [ih (t.setHost (es ++ rest)) rfl, State.performAll_setHost, State.performAll_cons ht]
    rfl

/-- The queue of later events has no part in what a line expands to. -/
@[simp] theorem expandLine_setHost (s : State) (es : List HostEvent) (l : HostLine) :
    expandLine (s.setHost es) l = expandLine s l := by
  cases l <;> simp [expandLine]

/-- The lines after others expand in the state that those leave. -/
theorem expandProgram_append (s : State) (ls ls' : List HostLine) :
    expandProgram s (ls ++ ls') = expandProgram s ls ++ expandProgram (s.performAll (expandProgram s ls)) ls' := by
  induction ls generalizing s with
  | nil => rfl
  | cons l ls ih =>
    simp only [List.cons_append, expandProgram]
    rw [ih, State.performAll_append, List.append_assoc]

end Sys2Proof.Machine
end

