-- ==== Sys2Proof/Laws/PerInstr.lean ====
section
/-!
SUPPORT. Statements about every instruction as syntax, one lemma per constructor.
-/

namespace Sys2Proof.Laws

/-- A well-formed instruction's command word is below 4 exactly for the four legal commands (spec/30_encoding.md rules
R72 and R73). -/
def EncodedWord.Statement (i : Instr) : Prop :=
  i.wellFormed = true → ((encode i).toNat < 4 ↔ i ∈ [Instr.dec, .enc, .deca, .encr])

theorem EncodedWord.dec : EncodedWord.Statement .dec := by simp [EncodedWord.Statement, encode]

theorem EncodedWord.enc : EncodedWord.Statement .enc := by simp [EncodedWord.Statement, encode]

theorem EncodedWord.deca : EncodedWord.Statement .deca := by simp [EncodedWord.Statement, encode]

theorem EncodedWord.encr : EncodedWord.Statement .encr := by simp [EncodedWord.Statement, encode]

theorem EncodedWord.rsvd (word : Cell) : EncodedWord.Statement (.rsvd word) := by
  intro wf
  simp only [Instr.wellFormed, bne_iff_ne, ne_eq] at wf
  simp only [encode, List.mem_cons, reduceCtorEq, List.not_mem_nil, or_self, iff_false]
  intro small
  refine wf (BitVec.eq_of_toNat_eq ?_)
  simp only [rsvdField, BitVec.extractLsb'_toNat, Nat.shiftRight_eq_div_pow, BitVec.toNat_ofNat]
  omega

end Sys2Proof.Laws
end

