-- ==== Sys2Proof/Tests/Slice0.lean ====
section
/-!
SUPPORT. The model's own tests. Expected results come from spec/95_test_vectors.md (their V numbers are given) or from the
encodings of spec/30_encoding.md; then one witness for the hypotheses of each statement of Certificates/Slice0.
-/

namespace Sys2Proof.Machine.Tests

/-! Helpers. -/

/-- The next state of an outcome, if there is one. -/
def nextOf (o : Host.Outcome State Fault Refusal) : Option State :=
  match o with
  | .next s => some s
  | .fault _ => none
  | .refused _ => none

/-- A block with 64 cells, as the vectors assume, holding a text, with IN_LEN its length. -/
def holding (t : Text) : State :=
  { State.reset with maxLen := 64#32, inLen := BitVec.ofNat 32 t.length, inBuf := Memory.writeText [] 0 t }

/-- The first `n` cells written to OUT. -/
def written (s : State) (n : Nat) : List (Option Cell) := (List.range n).map s.outBuf.lookup

/-- "khoor". -/
def khoor : Text := [0x6B, 0x68, 0x6F, 0x6F, 0x72]

/-- "xq zz". -/
def xqzz : Text := [0x78, 0x71, 0x20, 0x7A, 0x7A]

/-- "the" and "cat". -/
def theCat : List Text := [[0x74, 0x68, 0x65], [0x63, 0x61, 0x74]]

/-! Well-formedness and decoding (R70, R72, R73). -/

theorem test_illformed_rsvd_refused : (Instr.rsvd 0x00000003#32).wellFormed = false := by decide

theorem test_wellformed_rsvd : (Instr.rsvd 0x00000004#32).wellFormed = true := by decide

theorem test_decode_dec : decodeTableWord 32 0x00000000 = some .dec := by decide

theorem test_decode_enc : decodeTableWord 32 0x00000001 = some .enc := by decide

theorem test_decode_deca : decodeTableWord 32 0x00000002 = some .deca := by decide

theorem test_decode_encr : decodeTableWord 32 0x00000003 = some .encr := by decide

theorem test_decode_rsvd :
    decodeTableWord 32 0x00000004 = some (.rsvd 0x00000004#32) ∧
    decodeTableWord 32 0x80000003 = some (.rsvd 0x80000003#32) := by decide

/-- Each kind of command word runs as the first command after reset. -/
theorem test_first_command_runs :
    ([0, 1, 2, 3, 4].all fun w => (nextOf (step (State.reset.withFetchWord 32 w))).isSome) = true := by decide

/-! Rotator (V10 to V37), text shifter (V40 to V58), scorer (V60 to V69), scanner (V90 to V104). -/

/-- V12, V14, V17, V21, V23, V24, V25, V28. -/
theorem test_rot_letters :
    rot 0x5A#32 1 .fwd = 0x41#32 ∧ rot 0x41#32 1 .bwd = 0x5A#32 ∧ rot 0x41#32 (-1) .bwd = 0x42#32 ∧
    rot 0x41#32 (-27) .fwd = 0x5A#32 ∧ rot 0x41#32 (-2147483648) .fwd = 0x43#32 ∧
    rot 0x41#32 (-2147483648) .bwd = 0x59#32 ∧ rot 0x41#32 2147483647 .fwd = 0x58#32 ∧
    rot 0x79#32 (-3) .bwd = 0x62#32 := by decide

/-- V29 to V32 and V36. -/
theorem test_rot_neighbours_pass :
    rot 0x40#32 5 .fwd = 0x40#32 ∧ rot 0x5B#32 5 .fwd = 0x5B#32 ∧ rot 0x60#32 5 .bwd = 0x60#32 ∧
    rot 0x7B#32 5 .fwd = 0x7B#32 ∧ rot 0xFFFFFFFF#32 1 .bwd = 0xFFFFFFFF#32 := by decide

/-- V40, V43, V46, V47 (shortened to its first separator). -/
theorem test_split :
    split [] = [[]] ∧ split [0x61, 0x20, 0x20, 0x62] = [[0x61], [], [0x62]] ∧ split [0x20] = [[], []] ∧
    split [0x74, 0x09, 0x63, 0x20, 0x64] = [[0x74, 0x09, 0x63], [0x64]] := by decide

/-- V53 and V55. -/
theorem test_tshift :
    tshift [0x20, 0x20, 0x41, 0x62, 0x20, 0x20] 1 .fwd = [0x20, 0x20, 0x42, 0x63, 0x20, 0x20] ∧
    tshift [0x5A, 0x7A, 0x41, 0x61] 1 .bwd = [0x59, 0x79, 0x5A, 0x7A] := by decide

/-- V61, V62, V63 and V64, as (m, n). -/
theorem test_score :
    let d := (DictPort.loaded theCat).contains
    let the_CAT : Text := [0x54, 0x68, 0x65, 0x20, 0x43, 0x41, 0x54]
    let the_cat_stop : Text := [0x74, 0x68, 0x65, 0x20, 0x63, 0x61, 0x74, 0x2E]
    let the__cat : Text := [0x74, 0x68, 0x65, 0x20, 0x20, 0x63, 0x61, 0x74]
    (matchedCount d the_CAT, wordCount the_CAT) = (2, 2) ∧
    (matchedCount d the_cat_stop, wordCount the_cat_stop) = (1, 2) ∧
    (matchedCount d the__cat, wordCount the__cat) = (2, 3) ∧ (matchedCount d [], wordCount []) = (0, 1) := by decide

/-- V69, and equality passes (V67). -/
theorem test_passes :
    passes 18 20 = true ∧ passes 17 19 = false ∧ passes 9 10 = true ∧ passes 8 9 = false := by decide

/-- V100: the largest shift is tried. -/
theorem test_scan_shift_25 :
    scan (DictPort.loaded [[0x68, 0x65, 0x6C, 0x6C, 0x6F]]).contains [0x67, 0x64, 0x6B, 0x6B, 0x6E] =
      .found 25 [0x68, 0x65, 0x6C, 0x6C, 0x6F] := by decide

/-- V93, V95 and V98: the empty text, no letters, and shift 0 never tried. -/
theorem test_scan_corners :
    scan (DictPort.loaded [[]]).contains [] = .found 1 [] ∧
    scan (DictPort.loaded [[0x31]]).contains [0x31] = .found 1 [0x31] ∧
    scan (DictPort.loaded [[0x61]]).contains [0x61] = .noMatch := by decide

/-! Commands (V70 to V83). -/

/-- V72. -/
theorem test_dec_khoor :
    (nextOf (exec .dec { holding khoor with shift := 29#32 })).map
      (fun s => (s.status, s.shiftUsed, s.outLen, written s 6)) =
    some (0x1#32, 29#32, 5#32, [some 0x68, some 0x65, some 0x6C, some 0x6C, some 0x6F, none]) := by decide

/-- V75. -/
theorem test_dec_most_negative :
    (nextOf (exec .dec { holding [0x41] with shift := 0x80000000#32 })).map
      (fun s => (s.status, s.shiftUsed, written s 1)) = some (0x1#32, 0x80000000#32, [some 0x59]) := by decide

/-- V73. -/
theorem test_enc_negative_shift :
    (nextOf (exec .enc { holding xqzz with shift := 0xFFFFFFFF#32 })).map
      (fun s => (s.status, s.shiftUsed, s.outLen, written s 5)) =
    some (0x5#32, 0xFFFFFFFF#32, 5#32, [some 0x77, some 0x70, some 0x20, some 0x79, some 0x79]) := by decide

/-- V79, with ENC: LEN_RANGE writes STATUS alone. -/
theorem test_enc_too_long :
    nextOf (exec .enc { holding [] with inLen := 65#32, shiftUsed := 7#32 }) =
      some { holding [] with inLen := 65#32, shiftUsed := 7#32, status := 0x23#32 } := by decide

/-- V82: the smallest passing shift wins. -/
theorem test_deca_smallest :
    (nextOf (exec .deca { holding [0x62] with dict := .loaded [[0x61], [0x7A]] })).map
      (fun s => (s.status, s.shiftUsed, s.outLen, written s 1)) = some (0x9#32, 1#32, 1#32, [some 0x61]) := by
  decide

/-- V83: NOMATCH leaves OUT_BUF. -/
theorem test_deca_noMatch :
    (nextOf (exec .deca { holding xqzz with
        dict := .loaded [[0x74, 0x68, 0x65]], outBuf := [(0, 0x77#32)], outLen := 5#32, shiftUsed := 9#32 })).map
      (fun s => (s.status, s.shiftUsed, s.outLen, s.outBuf)) = some (0xA#32, 0#32, 0#32, [(0, 0x77#32)]) := by
  decide

/-- V70: "Hi!" with the draw 5. -/
theorem test_encr_hi :
    (nextOf (exec .encr { holding [0x48, 0x69, 0x21] with rng := { injected := [4, 0], taken := 3 } })).map
      (fun s => (s.status, s.shiftUsed, written s 3, s.rng)) =
    some (0xD#32, 5#32, [some 0x4D, some 0x6E, some 0x21], { injected := [0], taken := 3 }) := by decide

/-- V71: a draw is taken for the empty text. -/
theorem test_encr_empty :
    (nextOf (exec .encr { holding [] with rng := { injected := [23], taken := 0 } })).map
      (fun s => (s.status, s.shiftUsed, s.outBuf, s.rng)) =
    some (0xD#32, 24#32, [], { injected := [], taken := 0 }) := by decide

/-- V80: a reserved word is checked before the length. -/
theorem test_rsvd_before_length :
    nextOf (exec (decode 0x00000010#32) { holding [] with inLen := 65#32 }) =
      some { holding [] with inLen := 65#32, status := 0x13#32 } := by decide

/-! Host transactions (V84 to V89). -/

/-- V84, V86 and V87, through the queue. -/
theorem test_host_reads :
    (nextOf (steps 3 { holding [] with host := [.rd .reg 0, .rd .reg 7, .rd .reg 6] })).map
      (fun s => (s.responses, s.host)) = some ([0x0#32, 0x0#32, 0x40#32], []) := by decide

/-- V85, V88 and V89: ignored writes. -/
theorem test_host_writes_ignored :
    nextOf (steps 3 { holding [] with host := [.wr .reg 3 0xFFFFFFFF, .wr .inp 64 0x41, .wr .out 0 0x41] }) =
      some (holding []) := by decide

/-- P4's first TEXT line. -/
theorem test_text_line :
    expandLine State.reset (.text [0x48, 0x69]) = [.wr .inp 0 0x48, .wr .inp 1 0x69, .wr .reg 2 2] := by decide

/-- R5, R75, R76: decimal literals at both ends of their range, and a CMD line. -/
theorem test_lines_expand :
    expandLine State.reset (.wrReg .shift (.decimal ⟨-2147483648, by decide⟩)) = [.wr .reg 1#32 0x80000000#32] ∧
    expandLine State.reset (.wrReg .shift (.decimal ⟨2147483647, by decide⟩)) = [.wr .reg 1#32 0x7FFFFFFF#32] ∧
    expandLine State.reset (.cmd .encr) = [.wr .reg 0#32 0x3#32] := by decide

/-- R76: READOUT reads as many cells as OUT_LEN says when the host reaches it: none before the command, two after. -/
theorem test_readout :
    expandProgram (holding [0x48, 0x69]) [.readout, .cmd .enc, .readout] =
      [.rd .reg 3, .rd .reg 4, .rd .reg 5, .wr .reg 0 1, .rd .reg 3, .rd .reg 4, .rd .reg 5, .rd .out 0, .rd .out 1] := by
  decide

/-! Witnesses: the hypotheses of each statement hold together somewhere, at the boundaries of its clauses. -/

theorem witness_DecodeEncodeAgree : (Instr.rsvd 0x00000004#32).wellFormed = true ∧ Instr.dec.wellFormed = true := by
  decide

theorem witness_DecodeFollowsTheFields :
    (0x00000004#32).extractLsb' 2 30 ≠ 0#30 ∧
    ((0x00000003#32).extractLsb' 2 30 = 0#30 ∧ (0x00000003#32).extractLsb' 0 2 = 0b11#2) ∧
    ((0x00000002#32).extractLsb' 2 30 = 0#30 ∧ (0x00000002#32).extractLsb' 0 2 = 0b10#2) ∧
    ((0x00000001#32).extractLsb' 2 30 = 0#30 ∧ (0x00000001#32).extractLsb' 0 2 = 0b01#2) ∧
    ((0x00000000#32).extractLsb' 2 30 = 0#30 ∧ (0x00000000#32).extractLsb' 0 2 = 0b00#2) := by decide

theorem witness_ReservedWordsCompleteAsRsvd : 4 ≤ (0x00000004#32).toNat ∧ 4 ≤ (0xFFFFFFFF#32).toNat := by decide

theorem witness_StepRunsIssuedCommand :
    ({ holding [] with host := [.wr .reg 0#32 0x1#32] } : State).host = .wr .reg 0#32 0x1#32 :: [] := rfl

theorem witness_EveryStepAnswersNextState : (holding []).host = [] := rfl

/-- Indices 6 and 7 of REG, 63 and 64 of a buffer of 64 cells. -/
theorem witness_HostReadsReturnTheCell :
    ({ holding [] with host := [.rd .reg 6#32] } : State).host = .rd .reg 6#32 :: [] ∧
    ({ holding [] with host := [.rd .inp 63#32] } : State).host = .rd .inp 63#32 :: [] ∧
    ({ holding [] with host := [.rd .out 64#32] } : State).host = .rd .out 64#32 :: [] ∧
    7 ≤ (7#32).toNat ∧ (63#32).toNat < (holding []).maxLen.toNat ∧ (holding []).maxLen.toNat ≤ (64#32).toNat := by
  decide

theorem witness_HostBufferWrites :
    ({ holding [] with host := [.wr .inp 63#32 1#32] } : State).host = .wr .inp 63#32 1#32 :: [] ∧
    (63#32).toNat < (holding []).maxLen.toNat ∧ (holding []).maxLen.toNat ≤ (64#32).toNat ∧
    ({ holding [] with host := [.wr .out 0#32 1#32] } : State).host = .wr .out 0#32 1#32 :: [] := by decide

theorem witness_HostRegisterWrites :
    ({ holding [] with host := [.wr .reg 1#32 5#32] } : State).host = .wr .reg 1#32 5#32 :: [] ∧
    ({ holding [] with host := [.wr .reg 6#32 5#32] } : State).host = .wr .reg 6#32 5#32 :: [] := by decide

theorem witness_ReservedIndexReadsZeroIgnoresWrites :
    7 ≤ (7#32).toNat ∧ 7 ≤ (0xFFFFFFFF#32).toNat ∧
    ({ holding [] with host := [.rd .reg 7#32] } : State).host = .rd .reg 7#32 :: [] ∧
    ({ holding [] with host := [.wr .reg 7#32 1#32] } : State).host = .wr .reg 7#32 1#32 :: [] := by decide

theorem witness_RepeatedStoringWriteIsIdempotent :
    ({ holding [] with host := [.wr .inp 64#32 5#32, .wr .inp 64#32 5#32] } : State).host =
      .wr .inp 64#32 5#32 :: .wr .inp 64#32 5#32 :: [] ∧
    ({ holding [] with host := [.wr .reg 2#32 5#32, .wr .reg 2#32 5#32] } : State).host =
      .wr .reg 2#32 5#32 :: .wr .reg 2#32 5#32 :: [] := by decide

theorem witness_ReadSeesEarlierWrite :
    (63#32).toNat < (holding []).maxLen.toNat ∧
    ({ holding [] with host := [.wr .inp 63#32 5#32, .rd .inp 63#32] } : State).host =
      .wr .inp 63#32 5#32 :: .rd .inp 63#32 :: [] ∧
    ({ holding [] with host := [.wr .reg 1#32 5#32, .rd .reg 1#32] } : State).host =
      .wr .reg 1#32 5#32 :: .rd .reg 1#32 :: [] := by decide

theorem witness_MaxLenIsConstant :
    nextOf (step { holding [] with host := [.wr .reg 6#32 5#32] }) = some (holding []) := by decide

/-- A text that fills the whole buffer, here of one cell. -/
theorem witness_TextLineFillsInput :
    ([0x41#32] : Text).length ≤ ({ holding [] with maxLen := 1#32 } : State).maxLen.toNat ∧
    ({ holding [] with maxLen := 1#32, host := expandLine State.reset (.text [0x41#32]) } : State).host =
      expandLine State.reset (.text [0x41#32]) ++ [] := by decide

theorem witness_ReadoutReadsTheResult :
    ({ holding [0x48] with host := expandProgram (holding [0x48]) ([.cmd .enc] ++ [.readout]) } : State).host =
      expandProgram { holding [0x48] with host := expandProgram (holding [0x48]) ([.cmd .enc] ++ [.readout]) }
        ([.cmd .enc] ++ [.readout]) ++ [] := by decide

theorem witness_ResetEventClearsRegisters :
    ({ holding khoor with host := [.reset] } : State).host = .reset :: [] := rfl

theorem witness_LettersAreTheTables :
    isUpper 0x41#32 = true ∧ isUpper 0x5A#32 = true ∧ isLower 0x61#32 = true ∧ isLower 0x7A#32 = true ∧
    isLetter 0x5A#32 = true ∧ isLetter 0x61#32 = true := by decide

theorem witness_RotMovesBySignedShift :
    (isUpper 0x5A#32 = true ∧ (26 : Int) ∣ ((0x5A#32).toNat : Int) - 0x41 + 1 - (0 : Nat)) ∧
    (isUpper 0x41#32 = true ∧ (26 : Int) ∣ ((0x41#32).toNat : Int) - 0x41 - 1 - (25 : Nat)) ∧
    (isLower 0x7A#32 = true ∧ (26 : Int) ∣ ((0x7A#32).toNat : Int) - 0x61 + 1 - (0 : Nat)) ∧
    (isLower 0x61#32 = true ∧ (26 : Int) ∣ ((0x61#32).toNat : Int) - 0x61 - 1 - (25 : Nat)) := by decide

theorem witness_RotKeepsCase :
    isUpper 0x41#32 = true ∧ isLower 0x7A#32 = true ∧ isLetter 0x40#32 = false ∧ isLetter 0x7B#32 = false := by decide

theorem witness_RotIdentities : isLetter 0x41#32 = true ∧ (25 : Nat) < 26 := by decide

theorem witness_RotReducedForm :
    ((25 : Nat) : Int) = (-1 : Int) % 26 ∧ isUpper 0x41#32 = true ∧ isLower 0x61#32 = true ∧
    isLetter 0x20#32 = false := by decide

theorem witness_SplitIsTheTokenization :
    ([[0x61#32], []] : List Text) ≠ [] ∧ (∀ tok ∈ ([[0x61#32], []] : List Text), 0x20#32 ∉ tok) ∧
    [0x20#32].intercalate ([[0x61#32], []] : List Text) = [0x61#32, 0x20#32] := by decide

theorem witness_TshiftKeepsLanesAndTokens : ([0x61#32, 0x20#32] : Text)[1]? = some 0x20#32 := by decide

theorem witness_LowerFoldFoldsLettersOnly :
    ([0x41#32, 0xC9#32] : Text)[0]? = some 0x41#32 ∧ isUpper 0x41#32 = true ∧
    ([0x41#32, 0xC9#32] : Text)[1]? = some 0xC9#32 ∧ isUpper 0xC9#32 = false := by decide

theorem witness_ThresholdAllowsATenthUnmatched :
    (1 ≤ 9 ∧ 9 ≤ 9) ∧ (9 ≤ 10 ∧ 10 ≤ 10 ∧ 10 ≤ 19) ∧ (17 ≤ 19 ∧ 10 ≤ 19 ∧ 19 ≤ 19) ∧ (18 ≤ 20 ∧ 20 ≤ 20 ∧ 20 ≤ 29) := by
  decide

theorem witness_SingleTokenMustMatch :
    0x20#32 ∉ ([0x61#32, 0x09#32] : Text) ∧ (DictPort.loaded [[]]).contains [] = true ∧
    (DictPort.loaded []).contains [] = false := by decide

/-- A scan that is found at 25, see also test_scan_shift_25. -/
theorem witness_ScanFindsSmallestPassingShift :
    scan (DictPort.loaded [[0x61#32]]).contains [0x7A#32] = .found 25 [0x61#32] := by decide

theorem witness_LetterlessTextFoundAtOne :
    (∀ c ∈ ([0x31#32] : Text), isLetter c = false) ∧
    accepts (DictPort.loaded [[0x31#32]]).contains [0x31#32] = true ∧
    accepts (DictPort.loaded []).contains [0x31#32] = false :=
  ⟨List.forall_mem_singleton.2 (by decide), by decide⟩

theorem witness_UppercaseEntriesNeverMatch :
    ([0x61#32] : Text) ∈ ([[0x41#32], [0x61#32]] : List Text) ∧ (∀ c ∈ ([0x61#32] : Text), isUpper c = false) ∧
    0x61#32 ∈ lowerFold [0x41#32] :=
  ⟨by decide, List.forall_mem_singleton.2 (by decide), by decide⟩

/-- The empty text and a text of all 64 cells. -/
theorem witness_lengthOk :
    (holding []).lengthOk ∧ ({ holding [] with inLen := 64#32 } : State).lengthOk := by
  unfold State.lengthOk
  decide

theorem witness_DecaFoundCompletes :
    ({ holding [0x62#32] with dict := .loaded [[0x61#32]] } : State).lengthOk ∧
    scan (DictPort.loaded [[0x61#32]]).contains
      ({ holding [0x62#32] with dict := .loaded [[0x61#32]] } : State).inputText = .found 1 [0x61#32] := by
  unfold State.lengthOk
  decide

theorem witness_DecaNoMatchCompletes :
    ({ holding [0x62#32] with dict := .loaded [] } : State).lengthOk ∧
    scan (DictPort.loaded []).contains ({ holding [0x62#32] with dict := .loaded [] } : State).inputText = .noMatch := by
  unfold State.lengthOk
  decide

theorem witness_EncrCompletes :
    ({ holding [] with rng := { injected := [0], taken := 0 } } : State).rng.injected = (0 : Draw) :: [] ∧
    (holding []).rng.injected = [] := by decide

theorem witness_OverlongInputIsRejected :
    ({ holding [] with inLen := 65#32 } : State).maxLen.toNat < ({ holding [] with inLen := 65#32 } : State).inLen.toNat ∧
    Instr.encr ∈ [Instr.dec, .enc, .deca, .encr] := by decide

theorem witness_ReservedWordCheckedFirst :
    4 ≤ (0x4#32).toNat ∧ (0x3#32).toNat < 4 ∧
    (holding []).maxLen.toNat < ({ holding [] with inLen := 65#32 } : State).inLen.toNat ∧
    ({ holding [] with inLen := 64#32 } : State).inLen.toNat ≤ (holding []).maxLen.toNat := by decide

/-- The draw 1 on "A": a letter at index 0 below IN_LEN 1. -/
theorem witness_EncrMovesEveryLetter :
    let s : State := { holding [0x41#32] with rng := { injected := [0], taken := 0 } }
    s.inLen.toNat ≤ s.maxLen.toNat ∧ (nextOf (exec .encr s)).isSome = true ∧ 0 < s.inLen.toNat ∧
    isLetter (s.inCell 0) = true := by decide

/-- ENC of "A" by 1, and the state in which the host has copied its output "B" to IN. -/
theorem witness_DecUndoesEnc :
    let s : State := { holding [0x41#32] with shift := 1#32 }
    let t : State := { s with status := 0x5#32, shiftUsed := 1#32, outLen := 1#32, outBuf := [(0, 0x42#32)] }
    let u : State := { t with inBuf := [(0, 0x42#32)] }
    s.inLen.toNat ≤ s.maxLen.toNat ∧ nextOf (exec .enc s) = some t ∧ u.shift = s.shift ∧ u.inLen = t.outLen ∧
    u.inLen.toNat ≤ u.maxLen.toNat ∧ ∀ i, i < t.outLen.toNat → u.inCell i = t.outCell i := by decide

/-- ENCR of "A" by the draw 1, and the state in which the host has copied its output "B" to IN and its shift to SHIFT. -/
theorem witness_DecUndoesEncrWithReportedShift :
    let s : State := { holding [0x41#32] with rng := { injected := [0], taken := 0 } }
    let t : State := { s with
      status := 0xD#32, shiftUsed := 1#32, outLen := 1#32, outBuf := [(0, 0x42#32)], rng := { injected := [], taken := 0 } }
    let u : State := { t with inBuf := [(0, 0x42#32)], shift := 1#32 }
    s.inLen.toNat ≤ s.maxLen.toNat ∧ nextOf (exec .encr s) = some t ∧ u.shift = t.shiftUsed ∧ u.inLen = t.outLen ∧
    u.inLen.toNat ≤ u.maxLen.toNat ∧ ∀ i, i < t.outLen.toNat → u.inCell i = t.outCell i := by decide

/-- An index from IN_LEN on, and a loaded dictionary. -/
theorem witness_CommandsKeepInputs :
    let s : State := { holding [0x41#32] with dict := .loaded [] }
    (nextOf (exec .deca s)).isSome = true ∧ s.inLen.toNat ≤ 1 ∧ s.dict = .loaded [] := by decide

theorem witness_RejectedCommandsWriteNoPayload :
    ((nextOf (exec .deca { holding [0x41#32] with dict := .loaded [] })).map fun t => statusResult t.status) = some 2#2 ∧
    ((nextOf (exec (.rsvd 4#32) (holding []))).map fun t => statusResult t.status) = some 3#2 := by decide

theorem witness_OnlyEncrDraws :
    ((nextOf (exec .encr { holding [] with inLen := 65#32 })).map fun t => statusResult t.status) = some 3#2 ∧
    Instr.dec ≠ .encr ∧ (nextOf (exec .dec (holding []))).isSome = true := by decide

theorem witness_ModeBitsEchoTheCommand :
    ((nextOf (exec .enc (holding []))).map fun t => statusResult t.status) = some 1#2 ∧
    ((nextOf (exec .enc { holding [] with inLen := 65#32 })).map fun t => statusResult t.status) = some 3#2 := by
  decide

theorem witness_ErrCodeNamesTheReason : (nextOf (exec (decode 0x4#32) (holding []))).isSome = true := by decide

theorem witness_OnlyCommandsWriteStatus :
    ((nextOf (step { holding [] with host := [.wr .reg 0#32 0x4#32] })).map fun t => decide (t.status ≠ (holding []).status)) =
      some true := by decide

theorem witness_WhoWritesWhat :
    let e : HostEvent := .wr .inp 0#32 0x41#32
    ({ holding [] with host := [e] } : State).host = e :: [] ∧ e ≠ .reset ∧ (∀ w, e ≠ .wr .reg 0#32 w) ∧
    (nextOf (step { holding [] with host := [e] })).isSome = true := by
  refine ⟨rfl, by decide, fun w h => ?_, by decide⟩
  cases h

theorem witness_DecaDependsOnAnswersOnly :
    (∀ w, (DictPort.loaded [[0x61#32], [0x61#32]]).contains w = (DictPort.loaded [[0x61#32]]).contains w) ∧
    (nextOf (exec .deca { holding [] with dict := .loaded [[0x61#32]] })).isSome = true := by
  refine ⟨fun w => ?_, by decide⟩
  simp

/-- Other contents from IN_LEN = 1 on. -/
theorem witness_CommandsReadOnlyTheText :
    let s : State := holding [0x41#32]
    (∀ j, j < s.inLen.toNat → State.inCell { s with inBuf := [(0, 0x41#32), (1, 0x42#32)] } j = s.inCell j) ∧
    (nextOf (exec .enc s)).isSome = true := by decide

/-- A state that meets the invariant, after an ENCR, with an event still to come. -/
theorem witness_StepKeepsInv :
    State.Inv { holding [0x41#32] with
      status := 0xD#32, shiftUsed := 24#32, outLen := 1#32, outBuf := [(0, 0x59#32)], host := [.wr .reg 0#32 0x2#32] } where
  capacity_pos := by decide
  inBuf_wf := by decide
  outBuf_wf := by decide
  status_legal := by decide
  outLen_le := by decide
  deca_shift := by decide
  encr_shift := by decide
  noMatch_payload := by decide
  none_payload := by decide

theorem witness_StatusReservedBitsStayZero :
    statusReserved ({ holding [] with host := [.wr .reg 0#32 0x4#32] } : State).status = 0#24 ∧
    (nextOf (step { holding [] with host := [.wr .reg 0#32 0x4#32] })).isSome = true := by decide

end Sys2Proof.Machine.Tests
end

section
/-!
SUPPORT. The text shifter as a map over the cells (R113), by way of joining what was split (R110, R111).
-/

namespace Sys2Proof.Machine

@[simp] theorem join_consFirst (c : Cell) (toks : List Text) : join (consFirst c toks) = c :: join toks := by
  match toks with
  | [] => rfl
  | [_] => rfl
  | _ :: _ :: _ => rfl

theorem split_ne_nil (t : Text) : split t ≠ [] := by
  induction t with
  | nil => simp [split]
  | cons c cs ih =>
    simp only [split]
    split
    · simp
    · cases h : split cs <;> simp [consFirst]

/-- An empty first token joins to a separator in front of the others, of which there is at least one. -/
theorem join_nil_cons {toks : List Text} (h : toks ≠ []) : join ([] :: toks) = Config.space :: join toks := by
  cases toks with
  | nil => exact absurd rfl h
  | cons tok rest => rfl

/-- Joining the tokens of a text gives the text back (R110, R111). -/
@[simp] theorem join_split (t : Text) : join (split t) = t := by
  induction t with
  | nil => rfl
  | cons c cs ih =>
    simp only [split]
    split
    · rename_i hc
      rw [join_nil_cons (split_ne_nil cs), ih, hc]
    · rw [join_consFirst, ih]

/-- A function that keeps the separator may be mapped over the tokens or over the joined text. -/
theorem join_map_map (f : Cell → Cell) (hf : f Config.space = Config.space) (toks : List Text) :
    join (toks.map (List.map f)) = (join toks).map f := by
  induction toks with
  | nil => rfl
  | cons tok rest ih =>
    cases rest with
    | nil => rfl
    | cons tok' rest =>
      simp only [List.map_cons, join, List.map_append, hf] at ih ⊢
      rw [ih]

/-- The separator is no letter and passes through the rotator (R92). -/
theorem rot_space (k : Int) (dir : Direction) : rot Config.space k dir = Config.space := rfl

/-- The text shifter rotates cell by cell (R113). -/
theorem tshift_eq_map (t : Text) (k : Int) (dir : Direction) : tshift t k dir = t.map fun c => rot c k dir := by
  rw [tshift, join_map_map (fun c => rot c k dir) (rot_space k dir), join_split]

@[simp] theorem tshift_length (t : Text) (k : Int) (dir : Direction) : (tshift t k dir).length = t.length := by
  rw [tshift_eq_map, List.length_map]

end Sys2Proof.Machine
end

section
/-!
SUPPORT. What a scan that finds a shift says of the shift and the candidate (R154).
-/

namespace Sys2Proof.Machine

theorem scanOver_found {dict : Text → Bool} {ct : Text} {shifts : List Nat} {k : Nat} {cand : Text}
    (h : scanOver dict ct shifts = .found k cand) :
    k ∈ shifts ∧ cand = candidate ct k ∧ accepts dict cand = true := by
  induction shifts with
  | nil => cases h
  | cons x rest ih =>
    simp only [scanOver] at h
    split at h
    · cases h
      exact ⟨List.mem_cons_self, rfl, ‹_›⟩
    · obtain ⟨mem, isCandidate⟩ := ih h
      exact ⟨List.mem_cons_of_mem _ mem, isCandidate⟩

theorem mem_scanShifts {k : Nat} : k ∈ scanShifts ↔ 1 ≤ k ∧ k ≤ 25 := by
  simp only [scanShifts, Config.scanFirst, Config.scanLast, List.mem_range'_1]
  omega

/-- A shift that the scan finds is one of the candidate shifts, and its candidate is the one accepted. -/
theorem scan_found {dict : Text → Bool} {ct : Text} {k : Nat} {cand : Text} (h : scan dict ct = .found k cand) :
    (1 ≤ k ∧ k ≤ 25) ∧ cand = candidate ct k ∧ accepts dict cand = true := by
  obtain ⟨mem, isCandidate⟩ := scanOver_found h
  exact ⟨mem_scanShifts.1 mem, isCandidate⟩

@[simp] theorem candidate_length (ct : Text) (k : Nat) : (candidate ct k).length = ct.length :=
  tshift_length ct k .bwd

end Sys2Proof.Machine
end

section
/-!
SUPPORT. A host write to a register, by the register that its index names (R23, R24).
-/

namespace Sys2Proof.Machine

theorem State.hostWrite_cmd (s : State) (v : Cell) : s.hostWrite .reg (regIndex .cmd) v = exec (decode v) s := rfl

theorem State.hostWrite_reg (s : State) {r : Reg} (v : Cell) (h : r ≠ .cmd) :
    s.hostWrite .reg (regIndex r) v = .next (s.regStore r v) := by
  cases r with
  | cmd => exact absurd rfl h
  | _ => rfl

end Sys2Proof.Machine
end

section
/-!
THEOREMS. The invariant is kept by each operation on the state, so by each command, by each event, and by each step.
-/

namespace Sys2Proof.Machine

/-- A magnitude of at most 25 comes back unchanged from the signed reading of SHIFT_USED (R5, R31). -/
theorem toInt_ofInt_of_small {k : Int} (low : 1 ≤ k) (high : k ≤ 25) : (BitVec.ofInt 32 k).toInt = k := by
  rw [BitVec.toInt_ofInt, Int.bmod_eq_of_le (by omega) (by omega)]

/-! The STATUS words of ERROR and of OK, and what OK's tells of the command's mode bits (R28, R181). -/

theorem statusWord_error_mem {code : ErrCode} (hcode : code ≠ .none) :
    statusWord .error false false code ∈ [0x13#32, 0x23#32] := by
  cases code with
  | none => exact absurd rfl hcode
  | rsvdCmd => simp
  | lenRange => simp

theorem statusWord_ok_mem (enc auto : Bool) : statusWord .ok enc auto .none ∈ [0x1#32, 0x5#32, 0x9#32, 0xD#32] := by
  revert enc auto
  decide

theorem auto_of_statusWord_ok_deca {enc auto : Bool} : statusWord .ok enc auto .none = 0x9#32 → auto = true := by
  revert enc auto
  decide

theorem enc_auto_of_statusWord_ok_encr {enc auto : Bool} :
    statusWord .ok enc auto .none = 0xD#32 → enc = true ∧ auto = true := by
  revert enc auto
  decide

/-- The invariant reads MAX_LEN, the two buffers, STATUS, SHIFT_USED and OUT_LEN, and nothing else. -/
theorem State.Inv.of_fields {s t : State} (h : s.Inv) (maxLen : t.maxLen = s.maxLen) (inBuf : t.inBuf = s.inBuf)
    (outBuf : t.outBuf = s.outBuf) (status : t.status = s.status) (shiftUsed : t.shiftUsed = s.shiftUsed)
    (outLen : t.outLen = s.outLen) : t.Inv := by
  obtain ⟨capacity_pos, inBuf_wf, outBuf_wf, status_legal, outLen_le, deca, encr, noMatch, none⟩ := h
  cases s
  cases t
  subst maxLen inBuf outBuf status shiftUsed outLen
  exact ⟨capacity_pos, inBuf_wf, outBuf_wf, status_legal, outLen_le, deca, encr, noMatch, none⟩

section Kept

variable {s : State} (h : s.Inv)
include h

/-! Operations that write no field the invariant reads. -/

theorem State.Inv.setHost (es : List HostEvent) : (s.setHost es).Inv := h.of_fields rfl rfl rfl rfl rfl rfl

theorem State.Inv.setRng (p : RandomPort) : (s.setRng p).Inv := h.of_fields rfl rfl rfl rfl rfl rfl

theorem State.Inv.setDict (d : DictPort) : (s.setDict d).Inv := h.of_fields rfl rfl rfl rfl rfl rfl

theorem State.Inv.respond (v : Cell) : (s.respond v).Inv := h.of_fields rfl rfl rfl rfl rfl rfl

theorem State.Inv.regStore (r : Reg) (v : Cell) : (s.regStore r v).Inv := by
  cases r with
  | shift => exact h.of_fields rfl rfl rfl rfl rfl rfl
  | inLen => exact h.of_fields rfl rfl rfl rfl rfl rfl
  | _ => exact h

/-! Operations that write such a field. -/

theorem State.Inv.writeIn {i : Nat} (v : Cell) (hi : i < s.capacity) : (s.writeIn i v).Inv :=
  { h with inBuf_wf := Memory.wf_write h.inBuf_wf v hi }

theorem State.Inv.resetEvent : s.resetEvent.Inv where
  capacity_pos := h.capacity_pos
  inBuf_wf := (Memory.wf_reset _).1
  outBuf_wf := (Memory.wf_reset _).2
  status_legal := by simp [statusValues]
  outLen_le := by simp
  deca_shift := by simp
  encr_shift := by simp
  noMatch_payload := by simp
  none_payload := by simp

/-- ERROR keeps SHIFT_USED and OUT_LEN, of which the invariant asks nothing under ERROR's own STATUS words. -/
theorem State.Inv.completeError {code : ErrCode} (hcode : code ≠ .none) : (s.completeError code).Inv :=
  have status : (s.completeError code).status ∈ [0x13#32, 0x23#32] := statusWord_error_mem hcode
  { h with
    status_legal := (by decide : [0x13#32, 0x23#32] ⊆ statusValues) status
    deca_shift := fun eq => absurd eq (ne_of_mem_of_not_mem status (by decide))
    encr_shift := fun eq => absurd eq (ne_of_mem_of_not_mem status (by decide))
    noMatch_payload := fun eq => absurd eq (ne_of_mem_of_not_mem status (by decide))
    none_payload := fun eq => absurd eq (ne_of_mem_of_not_mem status (by decide)) }

theorem State.Inv.completeNoMatch : s.completeNoMatch.Inv :=
  { h with
    status_legal := by simp [statusValues]
    outLen_le := by simp
    deca_shift := by simp
    encr_shift := by simp
    noMatch_payload := by simp
    none_payload := by simp }

/-- OK of a command that selects the shift itself has to report one in that command's range; DEC and ENC report any. -/
theorem State.Inv.completeOk {w : Cell} {k : Int} {out : Text} (fits : out.length ≤ s.maxLen.toNat)
    (auto : autoBit w = true → 1 ≤ k ∧ k ≤ 25) (encr : encBit w = true → autoBit w = true → k ≤ 24) :
    (s.completeOk w k out).Inv :=
  have status : (s.completeOk w k out).status ∈ [0x1#32, 0x5#32, 0x9#32, 0xD#32] := statusWord_ok_mem _ _
  have reported (isAuto : autoBit w = true) : (s.completeOk w k out).shiftUsed.toInt = k :=
    toInt_ofInt_of_small (auto isAuto).1 (auto isAuto).2
  { capacity_pos := h.capacity_pos
    inBuf_wf := h.inBuf_wf
    outBuf_wf := Memory.wf_writeText h.outBuf_wf out ((Nat.zero_add _).trans_le fits)
    status_legal := (by decide : [0x1#32, 0x5#32, 0x9#32, 0xD#32] ⊆ statusValues) status
    outLen_le := (BitVec.toNat_ofNat _ _).trans_le ((Nat.mod_le _ _).trans fits)
    deca_shift := fun eq => by
      have isAuto := auto_of_statusWord_ok_deca eq
      rw [reported isAuto]
      exact auto isAuto
    encr_shift := fun eq => by
      obtain ⟨isEnc, isAuto⟩ := enc_auto_of_statusWord_ok_encr eq
      rw [reported isAuto]
      exact ⟨(auto isAuto).1, encr isEnc isAuto⟩
    noMatch_payload := fun eq => absurd eq (ne_of_mem_of_not_mem status (by decide))
    none_payload := fun eq => absurd eq (ne_of_mem_of_not_mem status (by decide)) }

/-- DEC and ENC, whose mode bit AUTO is 0, report the given shift whatever it is (R130). -/
theorem State.Inv.completeOk_given {w : Cell} (given : autoBit w = false) (k : Int) {out : Text}
    (fits : out.length ≤ s.maxLen.toNat) : (s.completeOk w k out).Inv :=
  h.completeOk fits (fun auto => absurd (given.symm.trans auto) (by decide))
    (fun _ auto => absurd (given.symm.trans auto) (by decide))

/-! Commands. -/

/-- With the length checked, the effect of a command has to keep the invariant only for a text that fits. -/
theorem State.Inv.lengthChecked {effect : Text → State}
    (heffect : ∀ t : Text, t.length ≤ s.maxLen.toNat → (effect t).Inv) : (s.lengthChecked effect).Inv := by
  rcases s.lengthChecked_cases effect with ⟨fits, eq⟩ | ⟨-, eq⟩ <;> rw [eq]
  · exact heffect s.inputText (s.inputText_length.trans_le fits)
  · exact h.completeError (by decide)

/-- DECA completes with a candidate shift and a text as long as its operand, or with no match. -/
theorem State.Inv.completeScan (dict : Text → Bool) {ct : Text} (fits : ct.length ≤ s.maxLen.toNat) :
    (s.completeScan (scan dict ct)).Inv := by
  rcases s.completeScan_cases (scan dict ct) with ⟨k, cand, found, eq⟩ | ⟨-, eq⟩ <;> rw [eq]
  · obtain ⟨⟨low, high⟩, rfl, -⟩ := scan_found found
    exact h.completeOk (by rwa [candidate_length]) (fun _ => ⟨by omega, by omega⟩) (fun enc => absurd enc (by decide))
  · exact h.completeNoMatch

theorem State.Inv.exec (i : Instr) : ∃ t, exec i s = .next t ∧ t.Inv := by
  cases i with
  | dec => exact ⟨_, rfl, h.lengthChecked fun t fits => h.completeOk_given (by decide) _ (by rwa [tshift_length])⟩
  | enc => exact ⟨_, rfl, h.lengthChecked fun t fits => h.completeOk_given (by decide) _ (by rwa [tshift_length])⟩
  | deca => exact ⟨_, rfl, h.lengthChecked fun t fits => (h.setDict _).completeScan _ fits⟩
  | encr =>
    obtain ⟨low, high⟩ := drawShift_range s.rng.draw.1
    exact ⟨_, rfl, h.lengthChecked fun t fits =>
      (h.setRng _).completeOk (by rwa [tshift_length]) (fun _ => ⟨low, by omega⟩) (fun _ _ => high)⟩
  | rsvd w => exact ⟨_, rfl, h.completeError (by decide)⟩

/-! Events. -/

theorem State.Inv.hostWrite (space : Space) (i v : Cell) : ∃ t, s.hostWrite space i v = .next t ∧ t.Inv := by
  cases space with
  | reg =>
    rcases regAt_cases i with ⟨r, rfl, -⟩ | ⟨reserved, -⟩
    · by_cases isCmd : r = .cmd
      · rw [isCmd, State.hostWrite_cmd]
        exact h.exec (decode v)
      · exact ⟨_, s.hostWrite_reg v isCmd, h.regStore r v⟩
    · exact ⟨_, s.hostWrite_reserved v reserved, h⟩
  | inp =>
    rcases Nat.lt_or_ge i.toNat s.maxLen.toNat with inside | outside
    · exact ⟨_, s.hostWrite_inp v inside, h.writeIn v inside⟩
    · exact ⟨_, s.hostWrite_inp_outside v outside, h⟩
  | out => exact ⟨_, rfl, h⟩

theorem State.Inv.perform (e : HostEvent) : ∃ t, s.perform e = .next t ∧ t.Inv := by
  cases e with
  | rd space i => exact ⟨_, rfl, h.respond _⟩
  | wr space i v => exact h.hostWrite space i v
  | reset => exact ⟨_, rfl, h.resetEvent⟩
  | loadDict d => exact ⟨_, rfl, h.setDict d⟩
  | attachRandom p => exact ⟨_, rfl, h.setRng p⟩

theorem State.Inv.step : ∃ t, step s = .next t ∧ t.Inv := by
  simp only [Machine.step, State.serve]
  cases s.host with
  | nil => exact ⟨s, rfl, h⟩
  | cons e rest => exact (h.setHost rest).perform e

end Kept

end Sys2Proof.Machine

open Sys2Proof.Machine

/-- Settles O58, by the operations that a step is made of: each keeps the invariant, and OK does since a text that passes
the length check fits OUT_BUF and DECA and ENCR report a shift of their own range. -/
theorem stepKeepsInv : Obligations.StepKeepsInv := by
  unfold Obligations.StepKeepsInv
  intro s t inv next
  obtain ⟨u, hu, invU⟩ := inv.step
  rw [hu] at next
  cases next
  exact invU
end

section
/-!
SUPPORT. What each field of a STATUS word made of fields reads (R27 to R30).
-/

namespace Sys2Proof.Machine

section Fields

variable (r : Result) (enc auto : Bool) (e : ErrCode)

@[simp] theorem statusResult_statusWord : statusResult (statusWord r enc auto e) = resultCode r :=
  BitVec.extractLsb'_append_eq_right

@[simp] theorem statusModeEnc_statusWord : statusModeEnc (statusWord r enc auto e) = enc :=
  (BitVec.getLsbD_append (i := 2)).trans ((BitVec.getLsbD_append (i := 0)).trans (by simp))

@[simp] theorem statusModeAuto_statusWord : statusModeAuto (statusWord r enc auto e) = auto :=
  (BitVec.getLsbD_append (i := 3)).trans
    ((BitVec.getLsbD_append (i := 1)).trans ((BitVec.getLsbD_append (i := 0)).trans (by simp)))

/-- ERRCODE lies above the two bits of RESULT and the two mode bits. -/
@[simp] theorem statusErrCode_statusWord : statusErrCode (statusWord r enc auto e) = errCode e :=
  (BitVec.extractLsb'_append_eq_of_le (by decide)).trans <|
    (BitVec.extractLsb'_append_eq_of_le (by decide)).trans <|
      (BitVec.extractLsb'_append_eq_of_le (by decide)).trans BitVec.extractLsb'_append_eq_right

/-- The reserved bits lie above the other four fields. -/
@[simp] theorem statusReserved_statusWord : statusReserved (statusWord r enc auto e) = 0#24 :=
  (BitVec.extractLsb'_append_eq_of_le (by decide)).trans <|
    (BitVec.extractLsb'_append_eq_of_le (by decide)).trans <|
      (BitVec.extractLsb'_append_eq_of_le (by decide)).trans BitVec.extractLsb'_append_eq_left

end Fields

end Sys2Proof.Machine
end

section
/-!
SUPPORT. The ways in which a command completes, said once for every command (R180, R181, R191).
-/

namespace Sys2Proof.Machine

/-- `Completion i s t`: issued in state `s`, command `i` can complete in `t`. Before OK and NOMATCH a command may have
used the random-source port and the dictionary port, and nothing else. -/
inductive Completion (i : Instr) (s : State) : State → Prop
  /-- ERROR with RSVD_CMD (R186). -/
  | reserved (w : Cell) (isReserved : i = .rsvd w) : Completion i s (s.completeError .rsvdCmd)
  /-- ERROR with LEN_RANGE (R187). -/
  | overlong (legal : i ∈ [Instr.dec, .enc, .deca, .encr]) (tooLong : s.maxLen.toNat < s.inLen.toNat) :
      Completion i s (s.completeError .lenRange)
  /-- OK (R182 to R185). -/
  | ok (legal : i ∈ [Instr.dec, .enc, .deca, .encr]) (fits : s.inLen.toNat ≤ s.maxLen.toNat)
      (p : RandomPort) (d : DictPort) (k : Int) (out : Text) :
      Completion i s (((s.setRng p).setDict d).completeOk (encode i) k out)
  /-- NOMATCH (R184). -/
  | noMatch (isDeca : i = .deca) (fits : s.inLen.toNat ≤ s.maxLen.toNat) (d : DictPort) :
      Completion i s (s.setDict d).completeNoMatch

/-- A legal command whose effect completes it, once the length has been checked, completes in every state. -/
theorem Completion.of_lengthChecked {i : Instr} {s : State} {effect : Text → State}
    (legal : i ∈ [Instr.dec, .enc, .deca, .encr])
    (heffect : s.inLen.toNat ≤ s.maxLen.toNat → Completion i s (effect s.inputText)) :
    Completion i s (s.lengthChecked effect) := by
  rcases s.lengthChecked_cases effect with ⟨fits, eq⟩ | ⟨tooLong, eq⟩ <;> rw [eq]
  · exact heffect fits
  · exact .overlong legal tooLong

/-- What `exec` answers is a completion of its command. -/
theorem exec_completion {i : Instr} {s t : State} (h : exec i s = .next t) : Completion i s t := by
  cases i with
  | dec => cases h; exact .of_lengthChecked (by simp) fun fits => .ok (by simp) fits s.rng s.dict _ _
  | enc => cases h; exact .of_lengthChecked (by simp) fun fits => .ok (by simp) fits s.rng s.dict _ _
  | encr => cases h; exact .of_lengthChecked (by simp) fun fits => .ok (by simp) fits s.rng.draw.2 s.dict _ _
  | deca =>
    cases h
    refine .of_lengthChecked (by simp) fun fits => ?_
    rcases (s.setDict s.dict.afterUse).completeScan_cases (scan s.dict.contains s.inputText)
      with ⟨k, cand, -, eq⟩ | ⟨-, eq⟩ <;> rw [eq]
    · exact .ok (by simp) fits s.rng _ k cand
    · exact .noMatch rfl fits _
  | rsvd w => cases h; exact .reserved w rfl

theorem Completion.maxLen_eq {i : Instr} {s t : State} (h : Completion i s t) : t.maxLen = s.maxLen := by
  cases h <;> rfl

/-- ERROR leaves the mode bits 0; OK and NOMATCH echo bits 0 and 1 of the command's word, which for DECA are 0 and 1
(R28). -/
theorem Completion.status_cases {i : Instr} {s t : State} (h : Completion i s t) :
    (∃ code, t.status = statusWord .error false false code) ∨
    ∃ r, (r = .ok ∨ r = .noMatch) ∧ t.status = statusWord r (encBit (encode i)) (autoBit (encode i)) .none := by
  cases h with
  | reserved w isReserved => exact .inl ⟨.rsvdCmd, rfl⟩
  | overlong legal tooLong => exact .inl ⟨.lenRange, rfl⟩
  | ok legal fits p d k out => exact .inr ⟨.ok, .inl rfl, rfl⟩
  | noMatch isDeca fits d =>
    subst isDeca
    exact .inr ⟨.noMatch, .inr rfl, rfl⟩

theorem Completion.statusReserved_eq {i : Instr} {s t : State} (h : Completion i s t) :
    statusReserved t.status = 0#24 := by
  rcases h.status_cases with ⟨code, eq⟩ | ⟨r, -, eq⟩ <;> rw [eq, statusReserved_statusWord]

/-- A word is reserved or decodes to a legal command, by its field RSVD (R72 to R74). -/
theorem decode_cases (w : Cell) :
    (rsvdField w ≠ 0#30 ∧ decode w = .rsvd w) ∨
    (rsvdField w = 0#30 ∧ decode w ∈ [Instr.dec, .enc, .deca, .encr]) := by
  by_cases field : rsvdField w = 0#30
  · refine .inr ⟨field, ?_⟩
    rw [decode, if_neg (not_not.2 field)]
    cases autoBit w <;> cases encBit w <;> decide
  · exact .inl ⟨field, if_pos field⟩

theorem rsvdField_ne_zero_of_decode {w v : Cell} (h : decode w = .rsvd v) : rsvdField w ≠ 0#30 := by
  rcases decode_cases w with ⟨field, -⟩ | ⟨-, legal⟩
  · exact field
  · simp [h] at legal

theorem rsvdField_eq_zero_of_decode {w : Cell} (legal : decode w ∈ [Instr.dec, .enc, .deca, .encr]) :
    rsvdField w = 0#30 := by
  rcases decode_cases w with ⟨-, eq⟩ | ⟨field, -⟩
  · simp [eq] at legal
  · exact field

end Sys2Proof.Machine
end

section
/-!
SUPPORT. A step by the event that the host's queue puts next, and what a step does to the part of the state that the
host can only read (R23, R51, R57).
-/

namespace Sys2Proof.Machine

section Next

variable {s : State} {rest : List HostEvent}

theorem step_of_host {e : HostEvent} (h : s.host = e :: rest) : step s = (s.setHost rest).perform e := by
  simp only [step, State.serve, h]

theorem step_rd {space : Space} {i : Cell} (h : s.host = .rd space i :: rest) :
    step s = .next { s with host := rest, responses := s.responses ++ [s.hostRead space i] } := by
  rw [step_of_host h, State.perform, State.hostRead_setHost]
  rfl

theorem step_wr {space : Space} {i v : Cell} (h : s.host = .wr space i v :: rest) :
    step s = (s.setHost rest).hostWrite space i v :=
  step_of_host h

end Next

/-- `s.ReadOnlyKept t`: what the host can only read, the read-only registers and OUT_BUF, is in `t` as in `s`. -/
structure State.ReadOnlyKept (s t : State) : Prop where
  status : t.status = s.status
  shiftUsed : t.shiftUsed = s.shiftUsed
  outLen : t.outLen = s.outLen
  maxLen : t.maxLen = s.maxLen
  outCells : ∀ j, t.outCell j = s.outCell j

theorem State.ReadOnlyKept.refl (s : State) : s.ReadOnlyKept s := ⟨rfl, rfl, rfl, rfl, fun _ => rfl⟩

theorem State.regStore_readOnlyKept (s : State) (r : Reg) (v : Cell) : s.ReadOnlyKept (s.regStore r v) := by
  cases r <;> exact ⟨rfl, rfl, rfl, rfl, fun _ => rfl⟩

/-- A host write issues a command or keeps what the host can only read. -/
theorem State.hostWrite_cases {s t : State} {space : Space} {i v : Cell} (h : s.hostWrite space i v = .next t) :
    (space = .reg ∧ i = regIndex .cmd ∧ exec (decode v) s = .next t) ∨ s.ReadOnlyKept t := by
  cases space with
  | reg =>
    rcases regAt_cases i with ⟨r, rfl, -⟩ | ⟨high, -⟩
    · by_cases isCmd : r = .cmd
      · subst isCmd
        exact .inl ⟨rfl, rfl, h⟩
      · rw [s.hostWrite_reg v isCmd] at h
        cases h
        exact .inr (s.regStore_readOnlyKept r v)
    · rw [s.hostWrite_reserved v high] at h
      cases h
      exact .inr (.refl s)
  | inp =>
    refine .inr ?_
    rcases Nat.lt_or_ge i.toNat s.maxLen.toNat with inside | outside
    · rw [s.hostWrite_inp v inside] at h
      cases h
      exact ⟨rfl, rfl, rfl, rfl, fun _ => rfl⟩
    · rw [s.hostWrite_inp_outside v outside] at h
      cases h
      exact .refl s
  | out =>
    cases h
    exact .inr (.refl s)

/-- A step completes a command, takes a reset, or keeps what the host can only read. -/
theorem step_cases {s t : State} (h : step s = .next t) :
    (∃ w rest, s.host = .wr .reg (regIndex .cmd) w :: rest ∧ Completion (decode w) (s.setHost rest) t) ∨
    (∃ rest, s.host = .reset :: rest ∧ t = (s.setHost rest).resetEvent) ∨ s.ReadOnlyKept t := by
  cases queue : s.host with
  | nil =>
    simp only [step, State.serve, queue] at h
    cases h
    exact .inr (.inr (.refl s))
  | cons e rest =>
    rw [step_of_host queue] at h
    cases e with
    | wr space i v =>
      rcases State.hostWrite_cases h with ⟨rfl, rfl, run⟩ | kept
      · exact .inl ⟨v, rest, rfl, exec_completion run⟩
      · exact .inr (.inr ⟨kept.status, kept.shiftUsed, kept.outLen, kept.maxLen, kept.outCells⟩)
    | reset =>
      cases h
      exact .inr (.inl ⟨rest, rfl, rfl⟩)
    | _ =>
      cases h
      exact .inr (.inr ⟨rfl, rfl, rfl, rfl, fun _ => rfl⟩)

/-! MAX_TEXT_LEN, which a cell can hold (R4, R33). -/

theorem maxTextLen_range : 1 ≤ Config.maxTextLen ∧ Config.maxTextLen ≤ 2 ^ 32 - 1 := by
  have := Config.maxTextLenPred.isLt
  simp only [Config.maxTextLen]
  omega

theorem State.reset_maxLen_toNat : State.reset.maxLen.toNat = Config.maxTextLen := by
  have := maxTextLen_range
  exact (BitVec.toNat_ofNat _ _).trans (Nat.mod_eq_of_lt (by omega))

end Sys2Proof.Machine
end

section
/-!
THEOREMS. Registers, STATUS and reset: what a step, a command and a host transaction do to them.
-/

open Sys2Proof Sys2Proof.Machine

/-- Settles O13, by the three kinds of step, of which none writes MAX_LEN. -/
theorem maxLenIsConstant : Obligations.MaxLenIsConstant := by
  unfold Obligations.MaxLenIsConstant
  refine ⟨fun s t next => ?_, fun s => s.hostRead_reg .maxLen, State.reset_maxLen_toNat, maxTextLen_range⟩
  rcases step_cases next with ⟨w, rest, -, completion⟩ | ⟨rest, -, rfl⟩ | kept
  · exact completion.maxLen_eq
  · rfl
  · exact kept.maxLen

/-- Settles O51: a command completes with STATUS made of its word's two mode bits, or, on ERROR, of zeros. -/
theorem modeBitsEchoTheCommand : Obligations.ModeBitsEchoTheCommand := by
  unfold Obligations.ModeBitsEchoTheCommand
  refine ⟨fun i s t run => ?_, rfl, rfl⟩
  change (_ → statusModeEnc t.status = encBit (encode i) ∧ statusModeAuto t.status = autoBit (encode i)) ∧
    (_ → statusModeEnc t.status = false ∧ statusModeAuto t.status = false)
  rcases (exec_completion run).status_cases with ⟨code, eq⟩ | ⟨r, rfl | rfl, eq⟩ <;> rw [eq]
  · simp [resultCode]
  · simp [resultCode]
  · simp [resultCode]

/-- Settles O52, by the ways in which a command completes: each fixes RESULT, ERRCODE and the two conditions. -/
theorem errCodeNamesTheReason : Obligations.ErrCodeNamesTheReason := by
  unfold Obligations.ErrCodeNamesTheReason
  refine ⟨fun w s t run => ?_, rfl⟩
  change (_ ↔ rsvdField w ≠ 0#30) ∧ (_ ↔ rsvdField w = 0#30 ∧ _) ∧ _
  cases exec_completion run with
  | reserved v isReserved =>
    have field := rsvdField_ne_zero_of_decode isReserved
    simp [field, statusErrCode, statusResult]
  | overlong legal tooLong =>
    have field := rsvdField_eq_zero_of_decode legal
    simp [field, tooLong, statusErrCode, statusResult]
  | ok legal fits p d k out =>
    have field := rsvdField_eq_zero_of_decode legal
    simp [field, fits, errCode, resultCode]
  | noMatch isDeca fits d =>
    have field := rsvdField_eq_zero_of_decode (w := w) (by simp [isDeca])
    simp [field, fits, statusErrCode, statusResult]

/-- Settles O53, by the three kinds of step; and every arm of `exec` overwrites STATUS, which none of them reads. -/
theorem onlyCommandsWriteStatus : Obligations.OnlyCommandsWriteStatus := by
  unfold Obligations.OnlyCommandsWriteStatus
  constructor
  · intro s t next changed
    rcases step_cases next with ⟨w, rest, queue, -⟩ | ⟨rest, queue, -⟩ | kept
    · exact ⟨rest, .inl ⟨w, queue⟩⟩
    · exact ⟨rest, .inr queue⟩
    · exact absurd kept.status changed
  · intro i s v
    cases i <;> rfl

/-- Settles O59, by the three kinds of step: a command and a reset write the reserved bits as 0, no other step writes
STATUS. -/
theorem statusReservedBitsStayZero : Obligations.StatusReservedBitsStayZero := by
  unfold Obligations.StatusReservedBitsStayZero
  have afterReset : statusReserved 0#32 = 0#24 := rfl
  refine ⟨afterReset, fun s t zero next => ?_⟩
  rcases step_cases next with ⟨w, rest, -, completion⟩ | ⟨rest, -, rfl⟩ | kept
  · exact completion.statusReserved_eq
  · exact afterReset
  · rwa [kept.status]

/-- Settles O5: a write to CMD is `exec` of its word, and `withFetchWord` puts such a write first. -/
theorem stepRunsIssuedCommand : Obligations.StepRunsIssuedCommand := by
  unfold Obligations.StepRunsIssuedCommand
  have issue {s : State} {w : Cell} {rest : List HostEvent} (queue : s.host = .wr .reg 0#32 w :: rest) :
      step s = exec (decode w) (s.setHost rest) := (step_wr queue).trans (State.hostWrite_cmd _ w)
  exact ⟨fun s w rest queue => issue queue, fun s w => ⟨decode (tableCell 32 w), if_pos le_rfl, issue rfl⟩⟩

/-- Settles O7: a read answers `hostRead`, which the laws of the host port give for each space. -/
theorem hostReadsReturnTheCell : Obligations.HostReadsReturnTheCell := by
  unfold Obligations.HostReadsReturnTheCell
  refine fun s i rest => ⟨fun queue => ⟨_, step_rd queue, ?_⟩,
    fun queue => ⟨_, step_rd queue, s.hostRead_inp, s.hostRead_inp_outside⟩,
    fun queue => ⟨_, step_rd queue, s.hostRead_out, s.hostRead_out_outside⟩⟩
  have named (r : Reg) (eq : i = regIndex r) : s.hostRead .reg i = s.regRead r := eq ▸ s.hostRead_reg r
  exact ⟨named .cmd, named .shift, named .inLen, named .status, named .shiftUsed, named .outLen, named .maxLen,
    s.hostRead_reserved⟩

/-- Settles O9: a write to a register other than CMD is its `regStore`. -/
theorem hostRegisterWrites : Obligations.HostRegisterWrites := by
  unfold Obligations.HostRegisterWrites
  intro s i v rest queue
  have store (r : Reg) (other : r ≠ .cmd) (eq : i = regIndex r) : step s = .next ((s.setHost rest).regStore r v) := by
    rw [step_wr queue, eq, State.hostWrite_reg _ v other]
  refine ⟨store .shift (by decide), store .inLen (by decide), ?_⟩
  rintro (eq | eq | eq | eq)
  · exact store .status (by decide) eq
  · exact store .shiftUsed (by decide) eq
  · exact store .outLen (by decide) eq
  · exact store .maxLen (by decide) eq

/-- Settles O10, by the laws of the host port for an index that names no register. -/
theorem reservedIndexReadsZeroIgnoresWrites : Obligations.ReservedIndexReadsZeroIgnoresWrites := by
  unfold Obligations.ReservedIndexReadsZeroIgnoresWrites
  intro s i rest high
  constructor
  · intro queue
    rw [step_rd queue, s.hostRead_reserved high]
  · intro v queue
    exact (step_wr queue).trans (State.hostWrite_reserved _ v high)

/-- Settles O15, by the definition of the state after reset. -/
theorem registersAfterReset : Obligations.RegistersAfterReset :=
  ⟨rfl, rfl, rfl, rfl, rfl, State.reset.hostRead_reg .cmd, rfl⟩

/-- Settles O16: the step is the reset event, whose fields the laws of the state give. -/
theorem resetEventClearsRegisters : Obligations.ResetEventClearsRegisters := by
  unfold Obligations.ResetEventClearsRegisters
  intro s rest queue
  exact ⟨(s.setHost rest).resetEvent, step_of_host queue, by simp⟩

/-- Settles O57: MAX_TEXT_LEN is at least 1, both buffers are empty, and every other register is 0. -/
theorem invAtReset : Obligations.InvAtReset where
  capacity_pos := maxTextLen_range.1.trans_eq State.reset_maxLen_toNat.symm
  inBuf_wf := (Memory.wf_reset _).1
  outBuf_wf := (Memory.wf_reset _).2
  status_legal := by decide
  outLen_le := Nat.zero_le _
  deca_shift := fun deca => absurd deca (by decide)
  encr_shift := fun encr => absurd encr (by decide)
  noMatch_payload := fun _ => ⟨rfl, rfl⟩
  none_payload := fun _ => ⟨rfl, rfl⟩
end

section
/-!
SUPPORT. What one host event can do to the state, said once for every event (R51, R52, R240), and what a command leaves
of the host's inputs (R188).
-/

namespace Sys2Proof.Machine

theorem Completion.inputsKept {i : Instr} {s t : State} (h : Completion i s t) : s.InputsKept t := by
  cases h <;> exact ⟨rfl, rfl, rfl, rfl, fun _ => rfl, rfl, rfl⟩

/-- `EventEffect s e t`: performed in state `s`, event `e` can leave `t`. -/
inductive EventEffect (s : State) : HostEvent → State → Prop
  /-- A write to CMD completes the command it issues (R24). -/
  | command {w : Cell} {t : State} (completion : Completion (decode w) s t) :
      EventEffect s (.wr .reg (regIndex .cmd) w) t
  /-- SHIFT stores (R25). -/
  | storeShift (v : Cell) : EventEffect s (.wr .reg (regIndex .shift) v) (s.regStore .shift v)
  /-- IN_LEN stores (R26). -/
  | storeInLen (v : Cell) : EventEffect s (.wr .reg (regIndex .inLen) v) (s.regStore .inLen v)
  /-- A cell of IN below MAX_TEXT_LEN stores (R52). -/
  | storeIn (i v : Cell) (inside : i.toNat < s.maxLen.toNat) : EventEffect s (.wr .inp i v) (s.writeIn i.toNat v)
  /-- Every other write is ignored (R23, R34, R52). -/
  | ignored (space : Space) (i v : Cell)
      (nothingStores : (space = .reg ∧ 3 ≤ i.toNat) ∨ (space = .inp ∧ s.maxLen.toNat ≤ i.toNat) ∨ space = .out) :
      EventEffect s (.wr space i v) s
  /-- A read returns its cell to the host and does nothing else (R51). -/
  | read (space : Space) (i : Cell) : EventEffect s (.rd space i) (s.respond (s.hostRead space i))
  | reset : EventEffect s .reset s.resetEvent
  | loadDict (d : DictPort) : EventEffect s (.loadDict d) (s.setDict d)
  | attachRandom (p : RandomPort) : EventEffect s (.attachRandom p) (s.setRng p)

/-- A write to REG by the register that its index names. -/
theorem State.hostWrite_reg_effect {s t : State} {i v : Cell} (h : s.hostWrite .reg i v = .next t) :
    EventEffect s (.wr .reg i v) t := by
  rcases regAt_cases i with ⟨r, rfl, -⟩ | ⟨high, -⟩
  · cases r with
    | cmd => exact .command (exec_completion h)
    | shift => cases h; exact .storeShift v
    | inLen => cases h; exact .storeInLen v
    | _ => cases h; exact .ignored .reg _ v (.inl ⟨rfl, by decide⟩)
  · rw [s.hostWrite_reserved v high] at h
    cases h
    exact .ignored .reg i v (.inl ⟨rfl, by omega⟩)

/-- What `perform` answers is an effect of its event. -/
theorem State.perform_effect {s t : State} {e : HostEvent} (h : s.perform e = .next t) : EventEffect s e t := by
  cases e with
  | wr space i v =>
    cases space with
    | reg => exact State.hostWrite_reg_effect h
    | inp =>
      rcases Nat.lt_or_ge i.toNat s.maxLen.toNat with inside | outside
      · cases (s.hostWrite_inp v inside).symm.trans h
        exact .storeIn i v inside
      · cases (s.hostWrite_inp_outside v outside).symm.trans h
        exact .ignored .inp i v (.inr (.inl ⟨rfl, outside⟩))
    | out => cases h; exact .ignored .out i v (.inr (.inr rfl))
  | rd space i => cases h; exact .read space i
  | reset => cases h; exact .reset
  | loadDict d => cases h; exact .loadDict d
  | attachRandom p => cases h; exact .attachRandom p

end Sys2Proof.Machine
end

section
/-!
SUPPORT. The writes that store what they carry, to IN, SHIFT and IN_LEN (R25, R26, R52): a second one changes nothing,
and a read at the same place sees them.
-/

namespace Sys2Proof.Machine

@[simp] theorem Memory.write_write (m : Memory) (i : Nat) (v : Cell) : (m.write i v).write i v = m.write i v := by
  induction m with
  | nil => simp [Memory.write]
  | cons e m ih =>
    obtain ⟨a, u⟩ := e
    rcases Nat.lt_trichotomy i a with below | rfl | above
    · simp [Memory.write, below]
    · simp [Memory.write]
    · simp [Memory.write, above.not_gt, above.ne', ih]

@[simp] theorem State.writeIn_writeIn (s : State) (i : Nat) (v : Cell) :
    (s.writeIn i v).writeIn i v = s.writeIn i v := by
  simp [State.writeIn]

/-- A storing write leaves a state in which the same write changes nothing (R55). -/
theorem State.hostWrite_again {s t : State} {space : Space} {i v : Cell}
    (storing : space = .inp ∨ (space = .reg ∧ (i = regIndex .shift ∨ i = regIndex .inLen)))
    (h : s.hostWrite space i v = .next t) : t.hostWrite space i v = .next t := by
  rcases storing with rfl | ⟨rfl, rfl | rfl⟩
  · rcases Nat.lt_or_ge i.toNat s.maxLen.toNat with inside | outside
    · cases (s.hostWrite_inp v inside).symm.trans h
      exact ((s.writeIn i.toNat v).hostWrite_inp v inside).trans (congrArg _ (s.writeIn_writeIn i.toNat v))
    · cases (s.hostWrite_inp_outside v outside).symm.trans h
      exact h
  · cases h
    rfl
  · cases h
    rfl

/-- A storing write inside its space's storage is seen by a read at the same place, and leaves the host's side as it
is (R57). -/
theorem State.hostRead_of_hostWrite {s : State} {space : Space} {i : Cell} (v : Cell)
    (storing : (space = .inp ∧ i.toNat < s.maxLen.toNat) ∨
      (space = .reg ∧ (i = regIndex .shift ∨ i = regIndex .inLen))) :
    ∃ t, s.hostWrite space i v = .next t ∧ t.hostRead space i = v ∧ t.responses = s.responses ∧ t.host = s.host := by
  rcases storing with ⟨rfl, inside⟩ | ⟨rfl, rfl | rfl⟩
  · have seen : (s.writeIn i.toNat v).hostRead .inp i = v :=
      ((s.writeIn i.toNat v).hostRead_inp inside).trans ((s.inCell_writeIn _ v _).trans (if_pos rfl))
    exact ⟨_, s.hostWrite_inp v inside, seen, rfl, rfl⟩
  · exact ⟨_, s.hostWrite_reg v (by decide), State.hostRead_reg _ .shift, rfl, rfl⟩
  · exact ⟨_, s.hostWrite_reg v (by decide), State.hostRead_reg _ .inLen, rfl, rfl⟩

end Sys2Proof.Machine
end

section
/-!
SUPPORT. A command reads of IN_BUF its text alone: with the same cells below IN_LEN every command has the same effect
(R63).
-/

namespace Sys2Proof.Machine

/-- The state with other contents of IN_BUF. -/
def State.setInBuf (s : State) (m : Memory) : State := { s with inBuf := m }

section SameText

variable {s : State} {m : Memory} (same : ∀ j, j < s.inLen.toNat → (s.setInBuf m).inCell j = s.inCell j)
include same

theorem State.inputText_setInBuf : (s.setInBuf m).inputText = s.inputText :=
  List.map_congr_left fun j hj => same j (List.mem_range.1 hj)

/-- The length check does not read IN_BUF, and what it lets pass sees the same text. -/
theorem State.lengthChecked_setInBuf {effect effect' : Text → State}
    (heffect : ∀ t, effect' t = (effect t).setInBuf m) :
    (s.setInBuf m).lengthChecked effect' = (s.lengthChecked effect).setInBuf m := by
  rcases s.lengthChecked_cases effect with ⟨fits, eq⟩ | ⟨tooLong, eq⟩ <;> rw [eq]
  · rw [(s.setInBuf m).lengthChecked_ok effect' fits, State.inputText_setInBuf same, heffect]
  · exact (s.setInBuf m).lengthChecked_over effect' tooLong

end SameText

theorem State.completeScan_setInBuf (s : State) (m : Memory) (r : ScanResult) :
    (s.setInBuf m).completeScan r = (s.completeScan r).setInBuf m := by
  cases r <;> rfl

end Sys2Proof.Machine
end

section
/-!
THEOREMS. Host transactions on the buffers and registers, and who may read and write what (spec/20_memory.md).
-/

open Sys2Proof Sys2Proof.Machine

/-- Settles O8, by the laws of the host port for a write to IN inside and outside its storage, and to OUT. -/
theorem hostBufferWrites : Obligations.HostBufferWrites := by
  unfold Obligations.HostBufferWrites
  intro s i v rest
  refine ⟨fun queue inside => ?_, fun queue outside => ?_, fun queue => step_wr queue⟩
  · exact ⟨_, (step_wr queue).trans (State.hostWrite_inp _ v inside), rfl,
      (s.setHost rest).inCell_writeIn i.toNat v⟩
  · exact (step_wr queue).trans (State.hostWrite_inp_outside _ v outside)

/-- Settles O11: the second write finds a state in which it changes nothing, and the queue has no part in either. -/
theorem repeatedStoringWriteIsIdempotent : Obligations.RepeatedStoringWriteIsIdempotent := by
  unfold Obligations.RepeatedStoringWriteIsIdempotent
  intro s space i v rest storing queue
  obtain ⟨t, written, once⟩ := s.perform_setHost (.wr space i v)
  obtain ⟨u, writtenAgain, again⟩ := t.perform_setHost (.wr space i v)
  cases (State.hostWrite_again storing written).symm.trans writtenAgain
  exact ⟨_, _, (step_of_host queue).trans (once _), (step_of_host rfl).trans (again rest),
    (step_of_host rfl).trans (once rest)⟩

/-- Settles O54, by the effects that an event can have: each writes its own part of the state. -/
theorem whoWritesWhat : Obligations.WhoWritesWhat := by
  unfold Obligations.WhoWritesWhat
  intro s t e rest queue next notReset
  rw [step_of_host queue] at next
  cases State.perform_effect next with
  | command completion =>
    obtain ⟨shift, inLen, -, -, inCells, host, -⟩ := completion.inputsKept
    exact ⟨fun notCmd => absurd rfl (notCmd _), fun _ => shift, fun _ => inLen, fun j _ => inCells j, host⟩
  | storeShift v =>
    exact ⟨fun _ => ⟨rfl, rfl, fun _ => rfl⟩, fun notShift => absurd rfl (notShift v), fun _ => rfl,
      fun _ _ => rfl, rfl⟩
  | storeInLen v =>
    exact ⟨fun _ => ⟨rfl, rfl, fun _ => rfl⟩, fun _ => rfl, fun notInLen => absurd rfl (notInLen v),
      fun _ _ => rfl, rfl⟩
  | storeIn i v inside =>
    have others (j : Nat) (other : i.toNat ≠ j) : ((s.setHost rest).writeIn i.toNat v).inCell j = s.inCell j :=
      (State.inCell_writeIn _ _ v j).trans (if_neg other.symm)
    exact ⟨fun _ => ⟨rfl, rfl, fun _ => rfl⟩, fun _ => rfl, fun _ => rfl,
      fun j notCell => others j (notCell i v rfl), rfl⟩
  | reset => exact absurd rfl notReset
  | _ => exact ⟨fun _ => ⟨rfl, rfl, fun _ => rfl⟩, fun _ => rfl, fun _ => rfl, fun _ _ => rfl, rfl⟩

/-- Settles O56: the length check passes the same text on, and no effect of a command reads IN_BUF beside it. -/
theorem commandsReadOnlyTheText : Obligations.CommandsReadOnlyTheText := by
  unfold Obligations.CommandsReadOnlyTheText
  intro i s t m same run
  cases i with
  | rsvd w => cases run; rfl
  | deca =>
    cases run
    exact congrArg Host.Outcome.next
      (State.lengthChecked_setInBuf same fun text => (s.setDict s.dict.afterUse).completeScan_setInBuf m _)
  | _ => cases run; exact congrArg Host.Outcome.next (State.lengthChecked_setInBuf same fun _ => rfl)

/-- Settles O6: every event answers a next state, and with none pending the step is the state itself. -/
theorem everyStepAnswersNextState : Obligations.EveryStepAnswersNextState := by
  unfold Obligations.EveryStepAnswersNextState
  have idle (s : State) (queue : s.host = []) : step s = .next s := by
    simp only [step, State.serve, queue]
  refine ⟨fun s => ?_, idle⟩
  cases queue : s.host with
  | nil => exact ⟨s, idle s queue⟩
  | cons e rest =>
    obtain ⟨t, -, performed⟩ := s.perform_setHost e
    exact ⟨t.setHost rest, (step_of_host queue).trans (performed rest)⟩

/-- Settles O12: the write stores, and the read at the same place answers what it stored. -/
theorem readSeesEarlierWrite : Obligations.ReadSeesEarlierWrite := by
  unfold Obligations.ReadSeesEarlierWrite
  intro s space i v rest storing queue
  obtain ⟨t, write, seen, responses, host⟩ :=
    State.hostRead_of_hostWrite (s := s.setHost (.rd space i :: rest)) v storing
  exact ⟨t, _, (step_wr queue).trans write, step_rd host, by rw [responses, seen]; rfl, rfl⟩
end

section
/-!
SUPPORT. A command word as its field RSVD in front of its two low bits, and as the encoding of a well-formed instruction
(R70, R72, R73).
-/

namespace Sys2Proof.Machine

/-- With field RSVD zero, a word is its bits [1:0] below 30 zeros. -/
theorem word_of_low {w : Cell} {low : BitVec 2} (field : rsvdField w = 0#30) (bits : w.extractLsb' 0 2 = low) :
    w = 0#30 ++ low := by
  have fields : rsvdField w ++ w.extractLsb' 0 2 = w :=
    (BitVec.extractLsb'_append_extractLsb'_eq_extractLsb' rfl).trans BitVec.extractLsb'_eq_self
  rw [← fields, field, bits]

theorem rsvdField_eq_zero_iff (w : Cell) : rsvdField w = 0#30 ↔ w.toNat < 4 := by
  rw [← BitVec.toNat_inj, rsvdField, BitVec.extractLsb'_toNat, Nat.shiftRight_eq_div_pow, BitVec.toNat_ofNat]
  omega

theorem decode_rsvd {w : Cell} (reserved : 4 ≤ w.toNat) : decode w = .rsvd w :=
  if_pos (mt (rsvdField_eq_zero_iff w).1 reserved.not_gt)

theorem decode_encode {i : Instr} (wf : i.wellFormed = true) : decode (encode i) = i := by
  cases i with
  | rsvd w => exact if_pos (bne_iff_ne.1 wf)
  | _ => decide

/-- Every word is the command word of a well-formed instruction (R72, R73). -/
theorem exists_encode_eq (w : Cell) : ∃ i : Instr, i.wellFormed = true ∧ encode i = w := by
  by_cases field : rsvdField w = 0#30
  · have table : ∀ low : BitVec 2,
        ∃ i ∈ [Instr.dec, .enc, .deca, .encr], i.wellFormed = true ∧ encode i = 0#30 ++ low := by decide
    obtain ⟨i, -, wf, eq⟩ := table (w.extractLsb' 0 2)
    exact ⟨i, wf, eq.trans (word_of_low field rfl).symm⟩
  · exact ⟨.rsvd w, bne_iff_ne.2 field, rfl⟩

end Sys2Proof.Machine
end

section
/-!
SUPPORT. What the writes of a TEXT line and the reads of a READOUT line do (R76): the first put the text into
IN_BUF, the second add to the host's responses alone.
-/

namespace Sys2Proof.Machine

/-- A number that some cell bounds is the value of its own cell. -/
theorem toNat_ofNat_of_le {n : Nat} {bound : Cell} (h : n ≤ bound.toNat) : (BitVec.ofNat 32 n).toNat = n :=
  Nat.mod_eq_of_lt (h.trans_lt bound.isLt)

/-! TEXT. -/

theorem textWrites_length (i : Nat) (t : Text) : (textWrites i t).length = t.length := by
  induction t generalizing i with
  | nil => rfl
  | cons c cs ih => rw [textWrites, List.length_cons, ih, List.length_cons]

/-- The writes of a text that fits put it into IN_BUF and change nothing else (R52). -/
theorem State.performAll_textWrites (s : State) (i : Nat) (t : Text) (fits : i + t.length ≤ s.maxLen.toNat) :
    s.performAll (textWrites i t) = s.setInBuf (s.inBuf.writeText i t) := by
  induction t generalizing s i with
  | nil => rfl
  | cons c cs ih =>
    rw [List.length_cons] at fits
    have index : (BitVec.ofNat 32 i).toNat = i := toNat_ofNat_of_le (bound := s.maxLen) (by omega)
    have write : s.perform (.wr .inp (BitVec.ofNat 32 i) c) = .next (s.writeIn i c) := by
      rw [State.perform, s.hostWrite_inp c (by omega), index]
    rw [textWrites, State.performAll_cons write, ih _ _ (by rw [State.writeIn_maxLen]; omega)]
    rfl

/-- A TEXT line puts its text into IN_BUF and its length into IN_LEN (R76). -/
theorem State.performAll_text (s : State) (t : Text) (fits : t.length ≤ s.maxLen.toNat) :
    s.performAll (expandLine s (.text t)) =
      (s.setInBuf (s.inBuf.writeText 0 t)).regStore .inLen (BitVec.ofNat 32 t.length) := by
  rw [expandLine, State.performAll_append, s.performAll_textWrites 0 t (by omega)]
  have store := (s.setInBuf (s.inBuf.writeText 0 t)).hostWrite_reg (r := .inLen) (BitVec.ofNat 32 t.length) (by decide)
  exact State.performAll_cons (e := .wr .reg (regIndex .inLen) _) store []

/-- IN cells with a text put at IN[0]. -/
theorem State.inCell_setInBuf_writeText (s : State) (t : Text) (j : Nat) :
    (s.setInBuf (s.inBuf.writeText 0 t)).inCell j = if h : j < t.length then t[j] else s.inCell j := by
  simp only [State.inCell, State.setInBuf, Memory.lookup_writeText]
  by_cases h : j < t.length <;> simp [h]

/-! READOUT. -/

/-- The state with further cells received by the host. -/
def State.respondAll (s : State) (vs : List Cell) : State := { s with responses := s.responses ++ vs }

theorem State.respondAll_respondAll (s : State) (vs vs' : List Cell) :
    (s.respondAll vs).respondAll vs' = s.respondAll (vs ++ vs') := by
  simp [State.respondAll]

/-- What a read returns does not depend on what earlier reads returned. -/
@[simp] theorem State.hostRead_respondAll (s : State) (vs : List Cell) (space : Space) (i : Cell) :
    (s.respondAll vs).hostRead space i = s.hostRead space i := by
  cases space with
  | inp => rfl
  | out => rfl
  | reg =>
    rcases regAt_cases i with ⟨r, rfl, -⟩ | ⟨high, -⟩
    · simp only [State.hostRead_reg]
      cases r <;> rfl
    · simp only [State.hostRead_reserved _ high]

/-- Reads, one after the other, return what each would return at once, and change nothing else (R51). -/
theorem State.performAll_reads (s : State) (space : Space) (is : List Cell) :
    s.performAll (is.map fun i => .rd space i) = s.respondAll (is.map fun i => s.hostRead space i) := by
  induction is generalizing s with
  | nil => simp [State.respondAll]
  | cons i is ih =>
    rw [List.map_cons, State.performAll_cons (t := s.respondAll [s.hostRead space i]) rfl, ih,
      State.respondAll_respondAll]
    simp only [State.hostRead_respondAll, List.map_cons, List.singleton_append]

/-- The reads of OUT return the cells inside the buffer, and 0 outside it (R52). -/
theorem State.performAll_readoutCells (s : State) (m : Cell) :
    s.performAll (readoutCells m) =
      s.respondAll ((List.range m.toNat).map fun j => if j < s.maxLen.toNat then s.outCell j else 0#32) := by
  have cells : ∀ j ∈ List.range m.toNat,
      s.hostRead .out (BitVec.ofNat 32 j) = if j < s.maxLen.toNat then s.outCell j else 0#32 := by
    intro j inRange
    rw [State.hostRead, State.capacity, toNat_ofNat_of_le (List.mem_range.1 inRange).le]
  have reads := s.performAll_reads .out ((List.range m.toNat).map (BitVec.ofNat 32))
  rw [List.map_map, List.map_map] at reads
  exact reads.trans (congrArg s.respondAll (List.map_congr_left cells))

/-- A READOUT line reads three registers and as many cells of OUT as OUT_LEN says (R76). -/
theorem State.performAll_readout (s : State) :
    s.performAll (expandLine s .readout) = (s.respondAll [s.status, s.shiftUsed, s.outLen]).respondAll
      ((List.range s.outLen.toNat).map fun j => if j < s.maxLen.toNat then s.outCell j else 0#32) := by
  have registers : s.performAll readoutRegs = s.respondAll [s.status, s.shiftUsed, s.outLen] :=
    s.performAll_reads .reg [regIndex .status, regIndex .shiftUsed, regIndex .outLen]
  rw [expandLine, State.performAll_append, registers, State.performAll_readoutCells]
  rfl

end Sys2Proof.Machine
end

section
/-!
THEOREMS. Command words, and the lines of host programs (spec/30_encoding.md).
-/

open Sys2Proof Sys2Proof.Machine

/-- Settles O1: decoding gives back each well-formed instruction, and every word is the encoding of one. -/
theorem decodeEncodeAgree : Obligations.DecodeEncodeAgree := by
  unfold Obligations.DecodeEncodeAgree
  refine ⟨fun i => decode_encode, fun w => ?_⟩
  obtain ⟨i, wf, rfl⟩ := exists_encode_eq w
  rw [decode_encode wf]
  exact ⟨wf, rfl⟩

/-- Settles O4: field RSVD is zero exactly below 4, and RSVD completes with STATUS alone written. -/
theorem reservedWordsCompleteAsRsvd : Obligations.ReservedWordsCompleteAsRsvd := by
  unfold Obligations.ReservedWordsCompleteAsRsvd
  refine ⟨fun w => ⟨?_, fun reserved => ⟨w, decode_rsvd reserved⟩⟩, fun w s reserved => ?_⟩
  · rintro ⟨v, eq⟩
    exact Nat.not_lt.1 (mt (rsvdField_eq_zero_iff w).2 (rsvdField_ne_zero_of_decode eq))
  · rw [decode_rsvd reserved, ← statusWord_rsvdCmd]
    rfl

/-- Settles O14: the steps perform the line's writes, which put the text at IN[0] and store its length. -/
theorem textLineFillsInput : Obligations.TextLineFillsInput := by
  unfold Obligations.TextLineFillsInput
  intro s t rest fits queue
  have length : (expandLine s (.text t)).length = t.length + 1 := by
    rw [expandLine, List.length_append, textWrites_length, List.length_singleton]
  have run := steps_performAll _ rest s queue
  rw [length, s.performAll_text t fits] at run
  have cells := s.inCell_setInBuf_writeText t
  exact ⟨_, run, rfl, toNat_ofNat_of_le fits, fun i inside => (cells i).trans (dif_pos inside),
    fun i later => (cells i).trans (dif_neg later.not_gt)⟩

/-- Settles O60: the lines before run to the state in which READOUT expands, and its reads then answer one by one. -/
theorem readoutReadsTheResult : Obligations.ReadoutReadsTheResult := by
  unfold Obligations.ReadoutReadsTheResult
  intro s before rest queue
  rw [expandProgram_append, List.append_assoc] at queue
  refine ⟨_, steps_performAll _ _ s queue, ?_⟩
  generalize s.performAll (expandProgram s before) = v
  rw [expandProgram, expandProgram, List.append_nil]
  refine ⟨rfl, ?_⟩
  have length : (expandLine v .readout).length = 3 + v.outLen.toNat := by
    rw [expandLine, List.length_append, readoutCells, List.length_map, List.length_range]
    rfl
  have run := steps_performAll (expandLine v .readout) rest (v.setHost (expandLine v .readout ++ rest)) rfl
  rw [length, State.performAll_setHost, State.performAll_readout] at run
  exact run

/-- Settles O2: with field RSVD zero a word is made of its bits [1:0], which select the command. -/
theorem decodeFollowsTheFields : Obligations.DecodeFollowsTheFields := by
  unfold Obligations.DecodeFollowsTheFields
  refine fun w => ⟨fun reserved => if_pos reserved, fun field => ?_⟩
  have selects {low : BitVec 2} (bits : w.extractLsb' 0 2 = low) : decode w = decode (0#30 ++ low) :=
    congrArg decode (word_of_low field bits)
  exact ⟨selects, selects, selects, selects⟩

/-- Settles O3: each word is the encoding of a legal command, or reserved. -/
theorem commandWordsDecode : Obligations.CommandWordsDecode :=
  ⟨decode_encode (i := .dec) rfl, decode_encode (i := .enc) rfl, decode_encode (i := .deca) rfl,
    decode_encode (i := .encr) rfl, decode_rsvd (by decide), decode_rsvd (by decide), decode_rsvd (by decide)⟩
end

section
/-!
SUPPORT. The two alphabets: their letters are the cells of two ranges, each letter with one position of 0 to 25 (R35, R90,
R91).
-/

namespace Sys2Proof.Machine

theorem isUpper_iff (c : Cell) : isUpper c = true ↔ 0x41 ≤ c.toNat ∧ c.toNat ≤ 0x5A := by
  simp [isUpper, BitVec.le_def]

theorem isLower_iff (c : Cell) : isLower c = true ↔ 0x61 ≤ c.toNat ∧ c.toNat ≤ 0x7A := by
  simp [isLower, BitVec.le_def]

theorem isLetter_eq_false_iff (c : Cell) : isLetter c = false ↔ isUpper c = false ∧ isLower c = false :=
  Bool.or_eq_false_iff

/-- The two letter tables of R35, each as the function from a position to its letter. -/
inductive IsAlphabet : (Nat → Cell) → Prop where
  | upper : IsAlphabet upperAt
  | lower : IsAlphabet lowerAt

theorem toNat_upperAt {i : Nat} (hi : i < 26) : (upperAt i).toNat = 0x41 + i :=
  (BitVec.toNat_ofNat ..).trans (Nat.mod_eq_of_lt (by omega))

theorem toNat_lowerAt {i : Nat} (hi : i < 26) : (lowerAt i).toNat = 0x61 + i :=
  (BitVec.toNat_ofNat ..).trans (Nat.mod_eq_of_lt (by omega))

/-- The 26 cells from `b` on are a range (R90 reads each table so). -/
theorem exists_ofNat_add_eq_iff {b : Nat} (hb : b + 25 < 2 ^ 32) (c : Cell) :
    (∃ i < 26, BitVec.ofNat 32 (b + i) = c) ↔ b ≤ c.toNat ∧ c.toNat ≤ b + 25 := by
  constructor
  · rintro ⟨i, hi, rfl⟩
    rw [BitVec.toNat_ofNat, Nat.mod_eq_of_lt (by omega)]
    omega
  · rintro ⟨low, high⟩
    exact ⟨c.toNat - b, by omega, by rw [Nat.add_sub_cancel' low, BitVec.ofNat_toNat, BitVec.setWidth_eq]⟩

theorem isUpper_iff_exists (c : Cell) : isUpper c = true ↔ ∃ i < 26, upperAt i = c :=
  (isUpper_iff c).trans (exists_ofNat_add_eq_iff (by decide) c).symm

theorem isLower_iff_exists (c : Cell) : isLower c = true ↔ ∃ i < 26, lowerAt i = c :=
  (isLower_iff c).trans (exists_ofNat_add_eq_iff (by decide) c).symm

theorem mem_upperTable {c : Cell} : c ∈ upperTable ↔ ∃ i < 26, upperAt i = c := by
  simp [upperTable, Config.alphaN]

theorem mem_lowerTable {c : Cell} : c ∈ lowerTable ↔ ∃ i < 26, lowerAt i = c := by
  simp [lowerTable, Config.alphaN]

/-- No cell is a letter of both alphabets (R90). -/
theorem isUpper_eq_false_of_isLower {c : Cell} (lower : isLower c = true) : isUpper c = false := by
  have range := (isLower_iff c).1 lower
  rw [← Bool.not_eq_true, isUpper_iff]
  omega

theorem isUpper_upperAt {i : Nat} (hi : i < 26) : isUpper (upperAt i) = true :=
  (isUpper_iff_exists _).2 ⟨i, hi, rfl⟩

theorem isLower_lowerAt {i : Nat} (hi : i < 26) : isLower (lowerAt i) = true :=
  (isLower_iff_exists _).2 ⟨i, hi, rfl⟩

theorem isUpper_lowerAt {i : Nat} (hi : i < 26) : isUpper (lowerAt i) = false :=
  isUpper_eq_false_of_isLower (isLower_lowerAt hi)

/-- Every letter stands in one of the two tables (R90). -/
theorem exists_alphabet_of_isLetter {c : Cell} (letter : isLetter c = true) :
    ∃ (f : Nat → Cell) (i : Nat), IsAlphabet f ∧ i < 26 ∧ f i = c := by
  rw [isLetter, Bool.or_eq_true] at letter
  rcases letter with upper | lower
  · obtain ⟨i, hi, eq⟩ := (isUpper_iff_exists c).1 upper
    exact ⟨upperAt, i, .upper, hi, eq⟩
  · obtain ⟨i, hi, eq⟩ := (isLower_iff_exists c).1 lower
    exact ⟨lowerAt, i, .lower, hi, eq⟩

/-- The position of a letter is its index in its table (R91). -/
theorem IsAlphabet.letterPos_eq {f : Nat → Cell} (hf : IsAlphabet f) {i : Nat} (hi : i < 26) : letterPos (f i) = i := by
  cases hf with
  | upper =>
    rw [letterPos, if_pos (isUpper_upperAt hi), toNat_upperAt hi]
    omega
  | lower =>
    rw [letterPos, isUpper_lowerAt hi, if_neg Bool.false_ne_true, toNat_lowerAt hi]
    omega

/-- The letters of one alphabet at two positions of 0 to 25 are equal only at equal positions. -/
theorem IsAlphabet.eq_iff {f : Nat → Cell} (hf : IsAlphabet f) {i j : Nat} (hi : i < 26) (hj : j < 26) :
    f i = f j ↔ i = j :=
  ⟨fun eq => by rw [← hf.letterPos_eq hi, eq, hf.letterPos_eq hj], congrArg f⟩

end Sys2Proof.Machine
end

section
/-!
SUPPORT. The character rotator as the rotation of each alphabet's positions by a signed shift (R92), and the laws of that
rotation (R95, R96).
-/

namespace Sys2Proof.Machine

/-- The position `k` further along the alphabet, modulo 26 (R6, R92). -/
def movedPos (i : Nat) (k : Int) : Nat := (((i : Int) + k) % 26).toNat

theorem movedPos_lt (i : Nat) (k : Int) : movedPos i k < 26 := by
  unfold movedPos
  omega

/-- The moved position is the one of 0 to 25 that differs from `i + k` by a multiple of 26. -/
theorem movedPos_eq_iff {i p : Nat} {k : Int} (hp : p < 26) : movedPos i k = p ↔ (26 : Int) ∣ i + k - p := by
  unfold movedPos
  omega

theorem movedPos_movedPos (i : Nat) (k j : Int) : movedPos (movedPos i k) j = movedPos i (k + j) := by
  unfold movedPos
  omega

/-- Moving by `k` lands where moving by the residue `k mod 26` lands. -/
theorem movedPos_emod (i : Nat) (k : Int) : movedPos i (k % 26) = movedPos i k := by
  rw [movedPos, Int.add_emod_emod, ← movedPos]

/-- The backward rotation is the forward one by the negated shift (R92). -/
theorem rot_eq_rot_fwd (c : Cell) (k : Int) (dir : Direction) : rot c k dir = rot c (signedShift k dir) .fwd := rfl

theorem rot_of_not_isLetter {c : Cell} (k : Int) (dir : Direction) (notLetter : isLetter c = false) :
    rot c k dir = c := by
  obtain ⟨notUpper, notLower⟩ := (isLetter_eq_false_iff c).1 notLetter
  simp [rot, notUpper, notLower]

/-- The rotator moves the letter's position and keeps its alphabet (R92, R93). -/
theorem IsAlphabet.rot_fwd {f : Nat → Cell} (hf : IsAlphabet f) {i : Nat} (hi : i < 26) (k : Int) :
    rot (f i) k .fwd = f (movedPos i k) := by
  have moved : rotatedPos (f i) k .fwd = movedPos i k := by
    rw [rotatedPos, hf.letterPos_eq hi]
    rfl
  cases hf with
  | upper => rw [rot, if_pos (isUpper_upperAt hi), moved]
  | lower => rw [rot, isUpper_lowerAt hi, if_neg Bool.false_ne_true, if_pos (isLower_lowerAt hi), moved]

/-- The result of a rotation is known from its position modulo 26. -/
theorem IsAlphabet.rot_fwd_eq_of_dvd {f : Nat → Cell} (hf : IsAlphabet f) {i p : Nat} {k : Int} (hi : i < 26)
    (hp : p < 26) (congruent : (26 : Int) ∣ i + k - p) : rot (f i) k .fwd = f p := by
  rw [hf.rot_fwd hi, (movedPos_eq_iff hp).2 congruent]

/-- What holds of every letter by its alphabet and position, and of every cell that is no letter, holds of all cells. -/
theorem cell_induction {motive : Cell → Prop}
    (letter : ∀ (f : Nat → Cell) (i : Nat), IsAlphabet f → i < 26 → motive (f i))
    (other : ∀ c, isLetter c = false → motive c) (c : Cell) : motive c := by
  cases isLetterC : isLetter c with
  | true =>
    obtain ⟨f, i, hf, hi, rfl⟩ := exists_alphabet_of_isLetter isLetterC
    exact letter f i hf hi
  | false => exact other c isLetterC

theorem rot_fwd_rot_fwd (c : Cell) (k j : Int) : rot (rot c k .fwd) j .fwd = rot c (k + j) .fwd := by
  induction c using cell_induction with
  | letter f i hf hi => rw [hf.rot_fwd hi, hf.rot_fwd (movedPos_lt i k), movedPos_movedPos, hf.rot_fwd hi]
  | other c notLetter => simp only [rot_of_not_isLetter _ _ notLetter]

/-- A letter stays exactly under the multiples of 26 (R96). -/
theorem IsAlphabet.rot_fwd_eq_self_iff {f : Nat → Cell} (hf : IsAlphabet f) {i : Nat} (hi : i < 26) (k : Int) :
    rot (f i) k .fwd = f i ↔ k % 26 = 0 := by
  rw [hf.rot_fwd hi, hf.eq_iff (movedPos_lt i k) hi, movedPos_eq_iff hi]
  omega

theorem rot_fwd_zero (c : Cell) : rot c 0 .fwd = c := by
  induction c using cell_induction with
  | letter f i hf hi => exact (hf.rot_fwd_eq_self_iff hi 0).2 rfl
  | other c notLetter => exact rot_of_not_isLetter _ _ notLetter

theorem rot_bwd_rot_fwd (c : Cell) (k : Int) : rot (rot c k .fwd) k .bwd = c := by
  rw [rot_eq_rot_fwd _ k .bwd, rot_fwd_rot_fwd, signedShift, Int.add_right_neg, rot_fwd_zero]

theorem rot_fwd_rot_bwd (c : Cell) (k : Int) : rot (rot c k .bwd) k .fwd = c := by
  rw [rot_eq_rot_fwd c k .bwd, rot_fwd_rot_fwd, signedShift, Int.add_left_neg, rot_fwd_zero]

/-- By a fixed shift and direction the rotator permutes the cells; the other direction is its inverse (R95, R96). -/
theorem rot_bijective (k : Int) (dir : Direction) : Function.Bijective fun c => rot c k dir := by
  rw [Function.bijective_iff_has_inverse]
  cases dir with
  | fwd => exact ⟨fun c => rot c k .bwd, fun c => rot_bwd_rot_fwd c k, fun c => rot_fwd_rot_bwd c k⟩
  | bwd => exact ⟨fun c => rot c k .fwd, fun c => rot_fwd_rot_bwd c k, fun c => rot_bwd_rot_fwd c k⟩

/-- Shifts that differ by a multiple of 26 rotate alike, in either direction (R96). -/
theorem rot_emod (c : Cell) (k : Int) (dir : Direction) : rot c (k % 26) dir = rot c k dir := by
  have moved : rotatedPos c (k % 26) dir = rotatedPos c k dir := by
    cases dir with
    | fwd => exact movedPos_emod (letterPos c) k
    | bwd =>
      simp only [rotatedPos, signedShift, Config.alphaN]
      omega
  rw [rot, rot, moved]

end Sys2Proof.Machine
end

section
/-!
THEOREMS. The character rotator (spec/40_char_rotator.md), and the text shifter that maps it over the cells
(spec/41_text_shifter.md).
-/

open Sys2Proof Sys2Proof.Machine

/-- Settles O18: both the table and the range of each class are its letters at the positions 0 to 25. -/
theorem lettersAreTheTables : Obligations.LettersAreTheTables := by
  unfold Obligations.LettersAreTheTables
  refine ⟨fun i hi => ⟨by simp [upperTable, upperAt, Config.alphaN, hi], by simp [lowerTable, lowerAt, Config.alphaN, hi]⟩,
    fun c => ⟨(isUpper_iff_exists c).trans mem_upperTable.symm, isUpper_iff c,
      (isLower_iff_exists c).trans mem_lowerTable.symm, isLower_iff c, ?disjoint, ?nonLetter, fun upper => if_pos upper,
      fun lower => ?lowerPos, fun letter => ?posLe⟩⟩
  case disjoint =>
    rintro ⟨upper, lower⟩
    exact Bool.false_ne_true ((isUpper_eq_false_of_isLower lower).symm.trans upper)
  case nonLetter =>
    rw [isLetter_eq_false_iff, ← Bool.not_eq_true, ← Bool.not_eq_true, isUpper_iff, isLower_iff]
    omega
  case lowerPos => rw [letterPos, isUpper_eq_false_of_isLower lower, if_neg Bool.false_ne_true]
  case posLe =>
    obtain ⟨f, i, hf, hi, rfl⟩ := exists_alphabet_of_isLetter letter
    rw [hf.letterPos_eq hi]
    omega

/-- Settles O19: the position that ROT gives is the only one of 0 to 25 in its class modulo 26. -/
theorem rotMovesBySignedShift : Obligations.RotMovesBySignedShift := by
  unfold Obligations.RotMovesBySignedShift
  intro c k p hp
  have upper (j : Int) (isUpperC : isUpper c = true) (congruent : (26 : Int) ∣ c.toNat - 0x41 + j - p) :
      rot c j .fwd = upperAt p := by
    obtain ⟨i, hi, rfl⟩ := (isUpper_iff_exists c).1 isUpperC
    rw [toNat_upperAt hi] at congruent
    exact IsAlphabet.upper.rot_fwd_eq_of_dvd hi (by omega) (by omega)
  have lower (j : Int) (isLowerC : isLower c = true) (congruent : (26 : Int) ∣ c.toNat - 0x61 + j - p) :
      rot c j .fwd = lowerAt p := by
    obtain ⟨i, hi, rfl⟩ := (isLower_iff_exists c).1 isLowerC
    rw [toNat_lowerAt hi] at congruent
    exact IsAlphabet.lower.rot_fwd_eq_of_dvd hi (by omega) (by omega)
  exact ⟨upper k, upper (-k), lower k, lower (-k)⟩

/-- Settles O20: a letter moves inside its own alphabet, every other cell stays. -/
theorem rotKeepsCase : Obligations.RotKeepsCase := by
  unfold Obligations.RotKeepsCase
  intro c k dir
  rw [rot_eq_rot_fwd]
  refine ⟨fun upper => ?_, fun lower => ?_, rot_of_not_isLetter _ _⟩
  · obtain ⟨i, hi, rfl⟩ := (isUpper_iff_exists c).1 upper
    rw [IsAlphabet.upper.rot_fwd hi]
    exact isUpper_upperAt (movedPos_lt _ _)
  · obtain ⟨i, hi, rfl⟩ := (isLower_iff_exists c).1 lower
    rw [IsAlphabet.lower.rot_fwd hi]
    exact isLower_lowerAt (movedPos_lt _ _)

/-- Settles O21: the two rotations add to one by 0, which moves nothing. -/
theorem rotRoundTrip : Obligations.RotRoundTrip :=
  fun c k => ⟨rot_bwd_rot_fwd c k, rot_fwd_rot_bwd c k⟩

/-- Settles O22, from the laws of the rotation of an alphabet's positions. -/
theorem rotIdentities : Obligations.RotIdentities := by
  unfold Obligations.RotIdentities
  refine ⟨fun c k => rot_eq_rot_fwd c k .bwd, fun c k dir => (rot_emod c k dir).symm, rot_fwd_rot_fwd,
    fun c k letter => ?fixed, rot_bijective, fun i k hi => ?rotation⟩
  case fixed =>
    obtain ⟨f, i, hf, hi, rfl⟩ := exists_alphabet_of_isLetter letter
    exact hf.rot_fwd_eq_self_iff hi k
  case rotation =>
    have moves {f : Nat → Cell} (hf : IsAlphabet f) (j : Int) : rot (f i) j .fwd = f (movedPos i (j % 26)) := by
      rw [hf.rot_fwd hi, movedPos_emod]
    exact ⟨moves .upper k, moves .lower k, moves .upper (-k), moves .lower (-k)⟩

/-- Settles O23: the reduced positions are those of 0 to 25 in the class of the signed shift. -/
theorem rotReducedForm : Obligations.RotReducedForm := by
  unfold Obligations.RotReducedForm
  intro c k r residue
  have letters {f : Nat → Cell} (hf : IsAlphabet f) {i : Nat} (hi : i < 26) :
      rot (f i) k .fwd = f ((letterPos (f i) + r) % 26) ∧ rot (f i) k .bwd = f ((letterPos (f i) + 26 - r) % 26) := by
    rw [hf.letterPos_eq hi, rot_eq_rot_fwd _ k .bwd, signedShift]
    exact ⟨hf.rot_fwd_eq_of_dvd hi (by omega) (by omega), hf.rot_fwd_eq_of_dvd hi (by omega) (by omega)⟩
  refine ⟨by omega, fun upper => ?_, fun lower => ?_, fun notLetter =>
    ⟨rot_of_not_isLetter _ _ notLetter, rot_of_not_isLetter _ _ notLetter⟩⟩
  · obtain ⟨i, hi, rfl⟩ := (isUpper_iff_exists c).1 upper
    exact letters .upper hi
  · obtain ⟨i, hi, rfl⟩ := (isLower_iff_exists c).1 lower
    exact letters .lower hi

/-- Settles O26: joining the rotated tokens maps the rotator over the text, as it keeps the separator. -/
theorem tshiftIsPerCharacter : Obligations.TshiftIsPerCharacter := tshift_eq_map

/-- Settles O28: cell by cell, the backward rotation undoes the forward one. -/
theorem tshiftRoundTrip : Obligations.TshiftRoundTrip := by
  unfold Obligations.TshiftRoundTrip
  intro t k
  rw [tshift_eq_map, tshift_eq_map, List.map_map]
  exact List.map_id'' (fun c => rot_bwd_rot_fwd c k) t
end

section
/-!
SUPPORT. Split and join as inverses of each other: split is the one list of tokens without the separator that joins to
the text (R110, R111), and it commutes with a map that keeps apart the separator and the other cells (R114).
-/

namespace Sys2Proof.Machine

theorem split_space_cons (cs : Text) : split (Config.space :: cs) = [] :: split cs := if_pos rfl

theorem split_cons_of_ne {c : Cell} (hc : c ≠ Config.space) (cs : Text) : split (c :: cs) = consFirst c (split cs) :=
  if_neg hc

theorem length_consFirst (c : Cell) {toks : List Text} (h : toks ≠ []) : (consFirst c toks).length = toks.length := by
  cases toks with
  | nil => exact absurd rfl h
  | cons tok rest => rfl

/-- Each separator ends one token, and the last token ends with the text (R110). -/
theorem length_split (t : Text) : (split t).length = t.count Config.space + 1 := by
  induction t with
  | nil => rfl
  | cons c cs ih =>
    by_cases hc : c = Config.space
    · rw [hc, split_space_cons, List.length_cons, ih, List.count_cons_self]
    · rw [split_cons_of_ne hc, length_consFirst c (split_ne_nil cs), ih, List.count_cons_of_ne hc]

theorem space_notMem_of_mem_consFirst {c : Cell} (hc : c ≠ Config.space) {toks : List Text}
    (free : ∀ tok ∈ toks, Config.space ∉ tok) : ∀ tok ∈ consFirst c toks, Config.space ∉ tok := by
  cases toks with
  | nil => simpa [consFirst] using hc.symm
  | cons tok rest => simpa [consFirst, hc.symm] using free

/-- No token of a text holds the separator (R110). -/
theorem space_notMem_of_mem_split (t : Text) : ∀ tok ∈ split t, Config.space ∉ tok := by
  induction t with
  | nil => simp [split]
  | cons c cs ih =>
    by_cases hc : c = Config.space
    · rw [hc, split_space_cons]
      exact List.forall_mem_cons.2 ⟨List.not_mem_nil, ih⟩
    · rw [split_cons_of_ne hc]
      exact space_notMem_of_mem_consFirst hc ih

/-- A text without a separator is its own one token. -/
theorem split_eq_singleton {tok : Text} (free : Config.space ∉ tok) : split tok = [tok] := by
  induction tok with
  | nil => rfl
  | cons c cs ih =>
    obtain ⟨hc, free⟩ := List.ne_and_not_mem_of_not_mem_cons free
    rw [split_cons_of_ne hc.symm, ih free, consFirst]

/-- The text before the first separator is the first token. -/
theorem split_append_space_cons {tok : Text} (free : Config.space ∉ tok) (t : Text) :
    split (tok ++ Config.space :: t) = tok :: split t := by
  induction tok with
  | nil => exact split_space_cons t
  | cons c cs ih =>
    obtain ⟨hc, free⟩ := List.ne_and_not_mem_of_not_mem_cons free
    rw [List.cons_append, split_cons_of_ne hc.symm, ih free, consFirst]

/-- Splitting joined tokens without the separator gives them back (R110, R111). -/
theorem split_join {toks : List Text} (ne : toks ≠ []) (free : ∀ tok ∈ toks, Config.space ∉ tok) :
    split (join toks) = toks := by
  induction toks with
  | nil => exact absurd rfl ne
  | cons tok rest ih =>
    obtain ⟨tokFree, restFree⟩ := List.forall_mem_cons.1 free
    cases rest with
    | nil => exact split_eq_singleton tokFree
    | cons tok' rest => rw [join, split_append_space_cons tokFree, ih (List.cons_ne_nil _ _) restFree]

/-- Join is the library's interposition of the one-cell separator (R111). -/
theorem join_eq_intercalate (toks : List Text) : join toks = [Config.space].intercalate toks := by
  induction toks with
  | nil => rfl
  | cons tok rest ih =>
    cases rest with
    | nil => exact List.intercalate_singleton.symm
    | cons tok' rest => rw [join, List.intercalate_cons_cons, ih, List.append_assoc, List.singleton_append]

/-- A map that sends the separator, and no other cell, to the separator acts on a text token by token. -/
theorem split_map {f : Cell → Cell} (hf : ∀ c, f c = Config.space ↔ c = Config.space) (t : Text) :
    split (t.map f) = (split t).map (List.map f) := by
  have free : ∀ tok ∈ (split t).map (List.map f), Config.space ∉ tok := by
    simpa [hf] using space_notMem_of_mem_split t
  calc split (t.map f)
      = split (join ((split t).map (List.map f))) := by rw [join_map_map f ((hf _).2 rfl), join_split]
    _ = (split t).map (List.map f) := split_join (by simpa using split_ne_nil t) free

/-- The rotator makes no separator out of another cell, as it permutes the cells and keeps the separator. -/
theorem rot_eq_space_iff (c : Cell) (k : Int) (dir : Direction) : rot c k dir = Config.space ↔ c = Config.space :=
  (rot_bijective k dir).injective.eq_iff' (rot_space k dir)

/-- The tokens of a shifted text are the shifted tokens of the text (R114). -/
theorem split_tshift (t : Text) (k : Int) (dir : Direction) :
    split (tshift t k dir) = (split t).map fun tok => tshift tok k dir := by
  simp only [tshift_eq_map]
  exact split_map (rot_eq_space_iff · k dir) t

end Sys2Proof.Machine
end

section
/-!
THEOREMS. The tokenizer and what the text shifter keeps of a text (spec/41_text_shifter.md).
-/

open Sys2Proof Sys2Proof.Machine

/-- Settles O24: tokens without the separator that join to the text are what splitting the joined text gives back. -/
theorem splitIsTheTokenization : Obligations.SplitIsTheTokenization := by
  unfold Obligations.SplitIsTheTokenization
  refine fun t => ⟨length_split t, space_notMem_of_mem_split t, ?joins, fun toks ne free joins => ?unique⟩
  case joins => exact (join_eq_intercalate (split t)).symm.trans (join_split t)
  case unique =>
    rw [← joins]
    exact (split_join ne free).symm.trans (congrArg split (join_eq_intercalate toks))

/-- Settles O25: both sides put the separator between the same two tokens, and splitting takes it out again. -/
theorem joinInvertsSplit : Obligations.JoinInvertsSplit := ⟨join_eq_intercalate, join_split⟩

/-- Settles O27: the shifter is the rotator mapped over the cells, which sends the separator and no other cell to the
separator. -/
theorem tshiftKeepsLanesAndTokens : Obligations.TshiftKeepsLanesAndTokens := by
  unfold Obligations.TshiftKeepsLanesAndTokens
  intro t k dir
  have lane (i : Nat) : (tshift t k dir)[i]? = t[i]?.map fun c => rot c k dir := by
    rw [tshift_eq_map, List.getElem?_map]
  refine ⟨tshift_length t k dir, lane, fun i atSpace => ?space, ?count, fun j => ?token⟩
  case space =>
    rw [lane, atSpace, Option.map_some]
    exact congrArg some (rot_space k dir)
  case count => rw [split_tshift, List.length_map]
  case token => rw [split_tshift, List.getElem?_map]
end

section
/-!
SUPPORT. Which commands draw (R132, R133), and why a store to SHIFT commutes with the commands that do not read it
(R184, R185).
-/

namespace Sys2Proof.Machine

/-- The length check takes no draw, whether or not it lets the command pass. -/
theorem State.lengthChecked_rng {s : State} {effect : Text → State} (heffect : ∀ t, (effect t).rng = s.rng) :
    (s.lengthChecked effect).rng = s.rng := by
  rcases s.lengthChecked_cases effect with ⟨-, eq⟩ | ⟨-, eq⟩ <;> rw [eq]
  · exact heffect s.inputText
  · rfl

theorem State.completeScan_rng (s : State) (r : ScanResult) : (s.completeScan r).rng = s.rng := by
  cases r <;> rfl

theorem exec_rng_of_ne_encr {i : Instr} {s t : State} (notEncr : i ≠ .encr) (run : exec i s = .next t) :
    t.rng = s.rng := by
  cases i with
  | encr => exact absurd rfl notEncr
  | rsvd w => cases run; rfl
  | deca => cases run; exact State.lengthChecked_rng fun _ => State.completeScan_rng _ _
  | _ => cases run; exact State.lengthChecked_rng fun _ => rfl

/-- Of the completions only OK may have used the random-source port, and OK is not ERROR. -/
theorem Completion.rng_of_error {i : Instr} {s t : State} (h : Completion i s t)
    (error : statusResult t.status = 3#2) : t.rng = s.rng := by
  cases h with
  | ok legal fits p d k out => simp [resultCode] at error
  | _ => rfl

/-- The length check does not read SHIFT, so it commutes with a store to SHIFT when what it lets pass does. -/
theorem State.lengthChecked_storeShift {s : State} {v : Cell} {effect effect' : Text → State}
    (heffect : ∀ t, effect' t = (effect t).regStore .shift v) :
    (s.regStore .shift v).lengthChecked effect' = (s.lengthChecked effect).regStore .shift v := by
  rcases s.lengthChecked_cases effect with ⟨fits, eq⟩ | ⟨tooLong, eq⟩ <;> rw [eq]
  · exact ((s.regStore .shift v).lengthChecked_ok effect' fits).trans (heffect s.inputText)
  · exact (s.regStore .shift v).lengthChecked_over effect' tooLong

theorem State.completeScan_storeShift (s : State) (v : Cell) (r : ScanResult) :
    (s.regStore .shift v).completeScan r = (s.completeScan r).regStore .shift v := by
  cases r <;> rfl

end Sys2Proof.Machine
end

section
/-!
THEOREMS. Where a command's shift comes from (spec/42_shift_selector.md).
-/

open Sys2Proof Sys2Proof.Machine

/-- Settles O50: no arm of `exec` but ENCR's draws and no ERROR completion does, the effects of ENCR and DECA commute
with a store to SHIFT, and every completion keeps the host's inputs. -/
theorem onlyEncrDrawsAndAutomaticIgnoresShift : Obligations.OnlyEncrDrawsAndAutomaticIgnoresShift := by
  unfold Obligations.OnlyEncrDrawsAndAutomaticIgnoresShift
  refine ⟨fun i s t run noDraw => ?draws, fun s t v run => ?encr, fun s t v run => ?deca,
    fun i s t run => (exec_completion run).inputsKept.shift⟩
  case draws => exact noDraw.elim (exec_rng_of_ne_encr · run) (exec_completion run).rng_of_error
  case encr =>
    cases run
    exact congrArg Host.Outcome.next (State.lengthChecked_storeShift fun _ => rfl)
  case deca =>
    cases run
    exact congrArg Host.Outcome.next
      (State.lengthChecked_storeShift fun text => (s.setDict s.dict.afterUse).completeScan_storeShift v _)
end

section
/-!
SUPPORT. The scoring unit: what the fold does to a cell (R151), when a one-token text is accepted (R157), and the scan
as the search for the first accepted candidate (R154, R155).
-/

namespace Sys2Proof.Machine

/-! The fold. -/

theorem lowerCell_of_not_isUpper {c : Cell} (notUpper : isUpper c = false) : lowerCell c = c := by
  rw [lowerCell, notUpper, if_neg Bool.false_ne_true]

/-- The two tables stand 0x20 apart (R35), so the fold keeps a letter's position. -/
theorem lowerCell_upperAt {i : Nat} (hi : i < 26) : lowerCell (upperAt i) = lowerAt i := by
  rw [lowerCell, if_pos (isUpper_upperAt hi)]
  refine BitVec.eq_of_toNat_eq ?_
  rw [BitVec.toNat_add, toNat_upperAt hi, toNat_lowerAt hi, BitVec.toNat_ofNat]
  omega

theorem lowerCell_of_isUpper {c : Cell} (upper : isUpper c = true) : lowerCell c = lowerAt (letterPos c) := by
  obtain ⟨i, hi, rfl⟩ := (isUpper_iff_exists c).1 upper
  rw [lowerCell_upperAt hi, IsAlphabet.upper.letterPos_eq hi]

@[simp] theorem isUpper_lowerCell (c : Cell) : isUpper (lowerCell c) = false := by
  cases upper : isUpper c with
  | false => rwa [lowerCell_of_not_isUpper upper]
  | true =>
    obtain ⟨i, hi, rfl⟩ := (isUpper_iff_exists c).1 upper
    rw [lowerCell_upperAt hi, isUpper_lowerAt hi]

@[simp] theorem lowerFold_length (w : Text) : (lowerFold w).length = w.length := List.length_map lowerCell

theorem getElem?_lowerFold (w : Text) (i : Nat) : (lowerFold w)[i]? = w[i]?.map lowerCell := List.getElem?_map

theorem isUpper_of_mem_lowerFold {w : Text} {c : Cell} (mem : c ∈ lowerFold w) : isUpper c = false := by
  obtain ⟨c, -, rfl⟩ := List.mem_map.1 mem
  exact isUpper_lowerCell c

theorem lowerFold_eq_self {w : Text} (noUpper : ∀ c ∈ w, isUpper c = false) : lowerFold w = w :=
  (List.map_congr_left fun c mem => lowerCell_of_not_isUpper (noUpper c mem)).trans (List.map_id w)

/-! The score. -/

theorem matchedCount_eq_length_filter (dict : Text → Bool) (t : Text) :
    matchedCount dict t = (((split t).map lowerFold).filter dict).length := by
  rw [← List.countP_eq_length_filter, List.countP_map]
  rfl

/-- Every candidate has the ciphertext's number of tokens (R158). -/
@[simp] theorem wordCount_candidate (ct : Text) (k : Nat) : wordCount (candidate ct k) = wordCount ct := by
  rw [wordCount, candidate, split_tshift, List.length_map, wordCount]

/-- A text of one token scores 1 of 1 or 0 of 1, of which the first passes (R157). -/
theorem accepts_of_space_notMem (dict : Text → Bool) {t : Text} (free : Config.space ∉ t) :
    accepts dict t = dict (lowerFold t) := by
  rw [accepts, matchedCount, wordCount, split_eq_singleton free, List.countP_singleton]
  cases dict (lowerFold t) <;> rfl

/-! The scan. -/

theorem scanOver_eq_found_iff {dict : Text → Bool} {ct : Text} {shifts : List Nat} {k : Nat} {cand : Text} :
    scanOver dict ct shifts = .found k cand ↔
      shifts.find? (accepts dict ∘ candidate ct) = some k ∧ cand = candidate ct k := by
  induction shifts with
  | nil => simp [scanOver]
  | cons s rest ih =>
    cases accepted : accepts dict (candidate ct s) with
    | true =>
      rw [scanOver, if_pos accepted, List.find?_cons_of_pos (p := accepts dict ∘ candidate ct) accepted,
        ScanResult.found.injEq, Option.some.injEq]
      exact and_congr_right fun eq => eq ▸ eq_comm
    | false => simpa [scanOver, accepted] using ih

theorem scanOver_eq_noMatch_iff {dict : Text → Bool} {ct : Text} {shifts : List Nat} :
    scanOver dict ct shifts = .noMatch ↔ shifts.find? (accepts dict ∘ candidate ct) = none := by
  induction shifts with
  | nil => simp [scanOver]
  | cons s rest ih => cases accepted : accepts dict (candidate ct s) <;> simp [scanOver, accepted, ih]

/-- The scan finds the first accepted candidate (R155). -/
theorem scan_eq_found_iff {dict : Text → Bool} {ct : Text} {k : Nat} {cand : Text} :
    scan dict ct = .found k cand ↔ 1 ≤ k ∧ k ≤ 25 ∧ cand = candidate ct k ∧ accepts dict cand = true ∧
      ∀ j, 1 ≤ j → j < k → accepts dict (candidate ct j) = false := by
  rw [scan, scanOver_eq_found_iff, scanShifts, List.find?_range'_eq_some, ← scanShifts, mem_scanShifts]
  simp only [Function.comp_apply, Bool.not_eq_true', Config.scanFirst]
  constructor
  · rintro ⟨⟨accepted, ⟨low, high⟩, smallest⟩, rfl⟩
    exact ⟨low, high, rfl, accepted, smallest⟩
  · rintro ⟨low, high, rfl, accepted, smallest⟩
    exact ⟨⟨accepted, ⟨low, high⟩, smallest⟩, rfl⟩

theorem scan_eq_noMatch_iff {dict : Text → Bool} {ct : Text} :
    scan dict ct = .noMatch ↔ ∀ k, 1 ≤ k → k ≤ 25 → accepts dict (candidate ct k) = false := by
  rw [scan, scanOver_eq_noMatch_iff, List.find?_eq_none]
  simp only [mem_scanShifts, Function.comp_apply, Bool.not_eq_true, and_imp]

theorem candidate_of_letterless {ct : Text} (letterless : ∀ c ∈ ct, isLetter c = false) (k : Nat) :
    candidate ct k = ct := by
  rw [candidate, tshift_eq_map]
  exact (List.map_congr_left fun c mem => rot_of_not_isLetter _ _ (letterless c mem)).trans (List.map_id ct)

/-- All candidates of a text without letters are the text itself, so the first one decides the scan (R154). -/
theorem scan_of_letterless (dict : Text → Bool) {ct : Text} (letterless : ∀ c ∈ ct, isLetter c = false) :
    (accepts dict ct = true → scan dict ct = .found 1 ct) ∧ (accepts dict ct = false → scan dict ct = .noMatch) := by
  have same := candidate_of_letterless letterless
  constructor
  · intro accepted
    exact scan_eq_found_iff.2 ⟨by decide, by decide, (same 1).symm, accepted, fun j low below => by omega⟩
  · intro rejected
    refine scan_eq_noMatch_iff.2 fun k _ _ => ?_
    rwa [same k]

end Sys2Proof.Machine
end

section
/-!
SUPPORT. DECA sees the dictionary only through the answers to its queries: with another port it completes alike but for
the port (R150, R184).
-/

namespace Sys2Proof.Machine

theorem State.completeScan_setDict (s : State) (d : DictPort) (r : ScanResult) :
    (s.setDict d).completeScan r = (s.completeScan r).setDict d := by
  cases r <;> rfl

/-- The length check does not read the dictionary port: whether the effect runs, which leaves its own port `used`, or
the command is rejected, which leaves `d`, nothing but the port differs. -/
theorem State.lengthChecked_setDict {s : State} (d : DictPort) {used : DictPort} {effect effect' : Text → State}
    (heffect : ∀ t, effect' t = (effect t).setDict used) :
    ∃ d', (s.setDict d).lengthChecked effect' = (s.lengthChecked effect).setDict d' := by
  rcases s.lengthChecked_cases effect with ⟨fits, eq⟩ | ⟨tooLong, eq⟩ <;> rw [eq]
  · exact ⟨used, ((s.setDict d).lengthChecked_ok effect' fits).trans (heffect s.inputText)⟩
  · exact ⟨d, (s.setDict d).lengthChecked_over effect' tooLong⟩

end Sys2Proof.Machine
end

section
/-!
THEOREMS. The dictionary port, the scoring unit and the scan (spec/43_scanner.md).
-/

open Sys2Proof Sys2Proof.Machine

/-- Settles O29: the fold maps over the cells, and of a cell it changes an uppercase letter's table alone. -/
theorem lowerFoldFoldsLettersOnly : Obligations.LowerFoldFoldsLettersOnly := by
  unfold Obligations.LowerFoldFoldsLettersOnly
  refine fun w => ⟨lowerFold_length w, fun i c at_i => ?_⟩
  rw [getElem?_lowerFold, at_i, Option.map_some]
  exact ⟨fun upper => congrArg some (lowerCell_of_isUpper upper),
    fun notUpper => congrArg some (lowerCell_of_not_isUpper notUpper)⟩

/-- Settles O30: the tokens are one more than the separators, m counts some of them, and shifting keeps their number. -/
theorem scoreCountsEveryToken : Obligations.ScoreCountsEveryToken := by
  unfold Obligations.ScoreCountsEveryToken
  exact fun dict t => ⟨length_split t, List.length_pos_iff.2 (split_ne_nil t), List.countP_le_length,
    matchedCount_eq_length_filter dict t, wordCount_candidate t⟩

/-- Settles O32: a text without a separator is one token, and the empty ciphertext is one without letters. -/
theorem singleTokenMustMatch : Obligations.SingleTokenMustMatch := by
  unfold Obligations.SingleTokenMustMatch
  refine ⟨fun dict cand free => by rw [accepts_of_space_notMem dict free], fun dict => ?_⟩
  have accepted : accepts dict [] = dict [] := accepts_of_space_notMem dict List.not_mem_nil
  rw [← accepted]
  exact scan_of_letterless dict (List.forall_mem_nil _)

/-- Settles O33: the scan is the search for the first accepted shift of the ascending list 1 to 25. -/
theorem scanFindsSmallestPassingShift : Obligations.ScanFindsSmallestPassingShift :=
  fun _ _ => ⟨fun _ _ => scan_eq_found_iff, scan_eq_noMatch_iff⟩

/-- Settles O34: every candidate is the ciphertext itself, and the first candidate is that of shift 1. -/
theorem letterlessTextFoundAtOne : Obligations.LetterlessTextFoundAtOne :=
  fun dict _ letterless => scan_of_letterless dict letterless

/-- Settles O35: a query is folded, so it passes the filter itself, and folding a text without uppercase letters gives
that text. -/
theorem uppercaseEntriesNeverMatch : Obligations.UppercaseEntriesNeverMatch := by
  unfold Obligations.UppercaseEntriesNeverMatch
  refine ⟨fun w c => isUpper_of_mem_lowerFold, fun entries w => ?filtered, fun entries e mem noUpper => ?itself⟩
  case filtered =>
    have kept : ((lowerFold w).all fun c => !isUpper c) = true :=
      List.all_eq_true.2 fun c mem => by rw [isUpper_of_mem_lowerFold mem, Bool.not_false]
    rw [DictPort.contains_loaded, DictPort.contains_loaded, Bool.eq_iff_iff, List.contains_iff_mem,
      List.contains_iff_mem, List.mem_filter, and_iff_left kept]
  case itself =>
    rw [lowerFold_eq_self noUpper, DictPort.contains_loaded]
    exact List.contains_iff_mem.2 mem

/-- Settles O55: with the same answers the scan has the same result, and neither the length check nor DECA's completion
reads the port. -/
theorem decaDependsOnAnswersOnly : Obligations.DecaDependsOnAnswersOnly := by
  unfold Obligations.DecaDependsOnAnswersOnly
  intro s t d sameAnswers run
  cases run
  have sameScan (text : Text) : ((s.setDict d).setDict d.afterUse).completeScan (scan d.contains text) =
      ((s.setDict s.dict.afterUse).completeScan (scan s.dict.contains text)).setDict d.afterUse := by
    rw [funext sameAnswers]
    exact (s.setDict s.dict.afterUse).completeScan_setDict d.afterUse _
  obtain ⟨d', eq⟩ := State.lengthChecked_setDict d sameScan
  exact ⟨d', congrArg Host.Outcome.next eq⟩

/-- Settles O31: Pass is 9·n ≤ 10·m, which for m ≤ n says that ten times the unmatched words are at most n. -/
theorem thresholdAllowsATenthUnmatched : Obligations.ThresholdAllowsATenthUnmatched := by
  unfold Obligations.ThresholdAllowsATenthUnmatched
  simp only [passes_iff]
  exact ⟨fun m n le => by omega, fun m n le low high => by omega, fun m n le low high => by omega,
    fun m n le low high => by omega, by decide⟩
end

section
/-!
SUPPORT. What each command executes where IN_LEN is in range and where it is not (R180, R187), what OK with a text as
long as the operand leaves (R181), and DEC as the inverse of a forward shift (R95).
-/

namespace Sys2Proof.Machine

/-! What `exec` answers, by the length check. -/

section InRange

variable {s : State} (fits : s.lengthOk)
include fits

theorem exec_dec_of_lengthOk :
    exec .dec s = .next (s.completeOk (encode .dec) s.shift.toInt (tshift s.inputText s.shift.toInt .bwd)) :=
  congrArg Host.Outcome.next (s.lengthChecked_ok _ fits)

theorem exec_enc_of_lengthOk :
    exec .enc s = .next (s.completeOk (encode .enc) s.shift.toInt (tshift s.inputText s.shift.toInt .fwd)) :=
  congrArg Host.Outcome.next (s.lengthChecked_ok _ fits)

theorem exec_deca_of_lengthOk :
    exec .deca s = .next ((s.setDict s.dict.afterUse).completeScan (scan s.dict.contains s.inputText)) :=
  congrArg Host.Outcome.next (s.lengthChecked_ok _ fits)

theorem exec_deca_of_found {k : Nat} {cand : Text} (found : scan s.dict.contains s.inputText = .found k cand) :
    exec .deca s = .next ((s.setDict s.dict.afterUse).completeOk (encode .deca) k cand) := by
  rw [exec_deca_of_lengthOk fits, found]
  rfl

theorem exec_deca_of_noMatch (noMatch : scan s.dict.contains s.inputText = .noMatch) :
    exec .deca s = .next (s.setDict s.dict.afterUse).completeNoMatch := by
  rw [exec_deca_of_lengthOk fits, noMatch]
  rfl

theorem exec_encr_of_lengthOk :
    exec .encr s = .next ((s.setRng s.rng.draw.2).completeOk (encode .encr) (drawShift s.rng.draw.1)
      (tshift s.inputText (drawShift s.rng.draw.1) .fwd)) :=
  congrArg Host.Outcome.next (s.lengthChecked_ok _ fits)

end InRange

/-- Every legal command makes the length check (R180, R187). -/
theorem exec_of_overlong {i : Instr} {s : State} (legal : i ∈ [Instr.dec, .enc, .deca, .encr])
    (tooLong : s.maxLen.toNat < s.inLen.toNat) : exec i s = .next (s.completeError .lenRange) := by
  cases i with
  | rsvd w => simp at legal
  | _ => exact congrArg Host.Outcome.next (s.lengthChecked_over _ tooLong)

/-! ERROR's two STATUS words (R181). -/

theorem State.completeError_rsvdCmd (s : State) : s.completeError .rsvdCmd = { s with status := 0x13#32 } := by
  rw [State.completeError, statusWord_rsvdCmd]

theorem State.completeError_lenRange (s : State) : s.completeError .lenRange = { s with status := 0x23#32 } := by
  rw [State.completeError, statusWord_lenRange]

/-! The length and the cells of what OK writes. -/

theorem length_tshift_inputText (s : State) (k : Int) (dir : Direction) :
    (tshift s.inputText k dir).length = s.inLen.toNat :=
  (tshift_length _ k dir).trans s.inputText_length

theorem length_of_scan_inputText {s : State} {dict : Text → Bool} {k : Nat} {cand : Text}
    (found : scan dict s.inputText = .found k cand) : cand.length = s.inLen.toNat := by
  obtain ⟨-, rfl, -⟩ := scan_found found
  exact (candidate_length _ k).trans s.inputText_length

theorem ofNat_length_eq_of_toNat {out : Text} {n : Cell} (length : out.length = n.toNat) :
    BitVec.ofNat 32 out.length = n := by
  rw [length, BitVec.ofNat_toNat, BitVec.setWidth_eq]

@[simp] theorem State.outCell_setRng (s : State) (p : RandomPort) (j : Nat) :
    (s.setRng p).outCell j = s.outCell j := rfl

@[simp] theorem State.outCell_setDict (s : State) (d : DictPort) (j : Nat) :
    (s.setDict d).outCell j = s.outCell j := rfl

/-- OK writes its text at OUT[0], also after a port of `s` has been used. -/
theorem State.completeOk_outWritten {s u : State} (sameOut : ∀ j, u.outCell j = s.outCell j) (w : Cell) (k : Int)
    (out : Text) : s.OutWritten (u.completeOk w k out) out where
  written i h := (u.outCell_writeOut out i).trans (dif_pos h)
  kept i h := (u.outCell_writeOut out i).trans ((dif_neg h.not_gt).trans (sameOut i))

/-- Where a command has written its shifted text, OUT holds the rotated cells of IN (R113). -/
theorem State.OutWritten.outCell_tshift {s t : State} {k : Int} {dir : Direction}
    (h : s.OutWritten t (tshift s.inputText k dir)) {i : Nat} (hi : i < s.inLen.toNat) :
    t.outCell i = rot (s.inCell i) k dir := by
  rw [h.written i (by rwa [length_tshift_inputText])]
  simp only [tshift_eq_map, List.getElem_map, State.inputText_getElem]

/-- A command that completes with OK and a text as long as its operand: the reported length, OUT_BUF and the inputs
(R181, R188). -/
theorem exec_completeOk_frame {i : Instr} {s u : State} {w : Cell} {k : Int} {out : Text}
    (run : exec i s = .next (u.completeOk w k out)) (sameOut : ∀ j, u.outCell j = s.outCell j)
    (length : out.length = s.inLen.toNat) :
    (u.completeOk w k out).outLen = s.inLen ∧ s.OutWritten (u.completeOk w k out) out ∧
      s.InputsKept (u.completeOk w k out) :=
  ⟨ofNat_length_eq_of_toNat length, State.completeOk_outWritten sameOut w k out, (exec_completion run).inputsKept⟩

/-! Draws (R132, R185). -/

theorem drawShift_eq (d : Draw) : drawShift d = d.val + 1 := Int.add_comm _ _

theorem RandomPort.draw_of_injected {p : RandomPort} {d : Draw} {ds : List Draw} (h : p.injected = d :: ds) :
    p.draw = (d, { injected := ds, taken := p.taken }) := by
  simp only [RandomPort.draw, h]

theorem RandomPort.draw_of_none_injected {p : RandomPort} (h : p.injected = []) :
    p.draw.2 = { injected := [], taken := p.taken + 1 } := by
  simp only [RandomPort.draw, h]

/-- No shift that a draw stands for is a multiple of 26, so it moves every letter (R96, R185). -/
theorem rot_fwd_ne_self {c : Cell} {k : Int} (letter : isLetter c = true) (low : 1 ≤ k) (high : k ≤ 24) :
    rot c k .fwd ≠ c := by
  obtain ⟨f, i, hf, hi, rfl⟩ := exists_alphabet_of_isLetter letter
  rw [ne_eq, hf.rot_fwd_eq_self_iff hi]
  omega

/-- DEC with the shift by which a text was shifted forward gives the text back, once the host has copied it to IN (R95,
R182). -/
theorem exec_dec_undoes_forward_shift {s t u : State} {k : Int} (outLen : t.outLen = s.inLen)
    (out : s.OutWritten t (tshift s.inputText k .fwd)) (shift : u.shift.toInt = k) (inLen : u.inLen = t.outLen)
    (fits : u.lengthOk) (copied : ∀ i, i < t.outLen.toNat → u.inCell i = t.outCell i) :
    ∃ v : State, exec .dec u = .next v ∧ v.outLen = s.inLen ∧ ∀ i, i < s.inLen.toNat → v.outCell i = s.inCell i := by
  have run := exec_dec_of_lengthOk fits
  obtain ⟨decLen, decOut, -⟩ := exec_completeOk_frame run (fun _ => rfl) (length_tshift_inputText u _ _)
  refine ⟨_, run, decLen.trans (inLen.trans outLen), fun i hi => ?_⟩
  rw [decOut.outCell_tshift (by rwa [inLen, outLen]), copied i (by rwa [outLen]), out.outCell_tshift hi, shift,
    rot_bwd_rot_fwd]

end Sys2Proof.Machine
end

section
/-!
SUPPORT. What a command leaves of OUT_BUF beyond its text and of a loaded dictionary (R150, R188).
-/

namespace Sys2Proof.Machine

/-- `s.BeyondTextKept t`: OUT_BUF from IN_LEN on and a loaded dictionary are in `t` as in `s`. -/
structure State.BeyondTextKept (s t : State) : Prop where
  outCells : ∀ j, s.inLen.toNat ≤ j → t.outCell j = s.outCell j
  dict : ∀ entries, s.dict = .loaded entries → t.dict = .loaded entries

theorem State.BeyondTextKept.completeError (s : State) (code : ErrCode) : s.BeyondTextKept (s.completeError code) :=
  ⟨fun _ _ => rfl, fun _ loaded => loaded⟩

theorem State.BeyondTextKept.completeOk {s u : State} (sameOut : ∀ j, u.outCell j = s.outCell j)
    (sameDict : ∀ entries, s.dict = .loaded entries → u.dict = .loaded entries) (w : Cell) (k : Int) {out : Text}
    (length : out.length = s.inLen.toNat) : s.BeyondTextKept (u.completeOk w k out) :=
  ⟨fun j hj => (State.completeOk_outWritten sameOut w k out).kept j (length.trans_le hj), sameDict⟩

/-- The length check rejects the command with ERROR, which writes STATUS alone, or runs its effect. -/
theorem State.BeyondTextKept.lengthChecked {s : State} {effect : Text → State}
    (heffect : s.BeyondTextKept (effect s.inputText)) : s.BeyondTextKept (s.lengthChecked effect) := by
  rcases s.lengthChecked_cases effect with ⟨-, eq⟩ | ⟨-, eq⟩ <;> rw [eq]
  · exact heffect
  · exact .completeError s .lenRange

theorem DictPort.afterUse_of_loaded {d : DictPort} {entries : List Text} (h : d = .loaded entries) :
    d.afterUse = .loaded entries := by
  rw [h, DictPort.afterUse_loaded]

theorem State.BeyondTextKept.exec {i : Instr} {s t : State} (run : exec i s = .next t) : s.BeyondTextKept t := by
  have shifted (k : Int) (dir : Direction) := length_tshift_inputText s k dir
  cases i with
  | dec => cases run; exact .lengthChecked (.completeOk (fun _ => rfl) (fun _ => id) _ _ (shifted _ _))
  | enc => cases run; exact .lengthChecked (.completeOk (fun _ => rfl) (fun _ => id) _ _ (shifted _ _))
  | encr =>
    cases run
    exact .lengthChecked (.completeOk (s.outCell_setRng s.rng.draw.2) (fun _ => id) _ _ (shifted _ _))
  | deca =>
    cases run
    refine .lengthChecked ?_
    rcases (s.setDict s.dict.afterUse).completeScan_cases (scan s.dict.contains s.inputText)
      with ⟨k, cand, found, eq⟩ | ⟨-, eq⟩ <;> rw [eq]
    · exact .completeOk (s.outCell_setDict _) (fun _ => DictPort.afterUse_of_loaded) _ _
        (length_of_scan_inputText found)
    · exact ⟨fun _ _ => rfl, fun _ => DictPort.afterUse_of_loaded⟩
  | rsvd w => cases run; exact .completeError s .rsvdCmd

end Sys2Proof.Machine
end

section
/-!
THEOREMS. The commands: result, STATUS and frame of each, rejections, and DEC as the inverse of ENC and ENCR
(spec/44_commands.md).
-/

open Sys2Proof Sys2Proof.Machine

/-- Settles O36: DEC completes with OK, its SHIFT and the text shifted backward, which is as long as the operand. -/
theorem decCompletes : Obligations.DecCompletes := by
  unfold Obligations.DecCompletes
  intro s fits
  have run := exec_dec_of_lengthOk fits
  obtain ⟨outLen, out, kept⟩ := exec_completeOk_frame run (fun _ => rfl) (length_tshift_inputText s _ _)
  exact ⟨_, run, statusWord_ok_dec, BitVec.ofInt_toInt, outLen, out, kept, rfl, rfl⟩

/-- Settles O37: ENC completes with OK, its SHIFT and the text shifted forward, which is as long as the operand. -/
theorem encCompletes : Obligations.EncCompletes := by
  unfold Obligations.EncCompletes
  intro s fits
  have run := exec_enc_of_lengthOk fits
  obtain ⟨outLen, out, kept⟩ := exec_completeOk_frame run (fun _ => rfl) (length_tshift_inputText s _ _)
  exact ⟨_, run, statusWord_ok_enc, BitVec.ofInt_toInt, outLen, out, kept, rfl, rfl⟩

/-- Settles O38: DECA completes with OK, the shift that the scan found, one of 1 to 25, and its candidate. -/
theorem decaFoundCompletes : Obligations.DecaFoundCompletes := by
  unfold Obligations.DecaFoundCompletes
  intro s k cand fits found
  have run := exec_deca_of_found fits found
  obtain ⟨⟨low, high⟩, -⟩ := scan_found found
  have reported : 1 ≤ (BitVec.ofInt 32 k).toInt ∧ (BitVec.ofInt 32 k).toInt ≤ 25 := by
    rw [toInt_ofInt_of_small (by omega) (by omega)]
    omega
  obtain ⟨outLen, out, kept⟩ := exec_completeOk_frame run (s.outCell_setDict _) (length_of_scan_inputText found)
  exact ⟨_, run, statusWord_ok_deca, BitVec.ofInt_natCast 32 k, reported.1, reported.2, outLen, out, kept, rfl⟩

/-- Settles O39: DECA completes with NOMATCH, which writes no cell. -/
theorem decaNoMatchCompletes : Obligations.DecaNoMatchCompletes := by
  unfold Obligations.DecaNoMatchCompletes
  intro s fits noMatch
  have run := exec_deca_of_noMatch fits noMatch
  exact ⟨_, run, statusWord_noMatch, rfl, rfl, ⟨fun _ h => absurd h (Nat.not_lt_zero _), fun _ _ => rfl⟩,
    (exec_completion run).inputsKept, rfl⟩

/-- Settles O40, with the shift of the one draw that ENCR takes from the port. -/
theorem encrCompletes : Obligations.EncrCompletes := by
  unfold Obligations.EncrCompletes
  intro s fits
  have run := exec_encr_of_lengthOk fits
  obtain ⟨low, high⟩ := drawShift_range s.rng.draw.1
  obtain ⟨outLen, out, kept⟩ := exec_completeOk_frame run (s.outCell_setRng _) (length_tshift_inputText s _ _)
  refine ⟨_, drawShift s.rng.draw.1, run, low, high, statusWord_ok_encr, rfl, toInt_ofInt_of_small low (by omega),
    outLen, out, kept, rfl, fun d ds injected => ?injected, RandomPort.draw_of_none_injected⟩
  case injected =>
    have drawn := RandomPort.draw_of_injected injected
    exact ⟨(congrArg (fun x => drawShift x.1) drawn).trans (drawShift_eq d), congrArg Prod.snd drawn⟩

/-- Settles O42: the length check rejects every legal command with LEN_RANGE, which writes STATUS alone. -/
theorem overlongInputIsRejected : Obligations.OverlongInputIsRejected := by
  unfold Obligations.OverlongInputIsRejected
  intro s i tooLong legal
  rw [exec_of_overlong legal tooLong, s.completeError_lenRange]

/-- Settles O43, by the ways in which a command completes: RSVD_CMD only for a reserved word, LEN_RANGE only for a legal
one that is too long. -/
theorem reservedWordCheckedFirst : Obligations.ReservedWordCheckedFirst := by
  unfold Obligations.ReservedWordCheckedFirst
  intro s w
  obtain ⟨t, run, -⟩ := exec_setHost (decode w) s
  refine ⟨t, run, ?_⟩
  have small_of_legal (legal : decode w ∈ [Instr.dec, .enc, .deca, .encr]) : w.toNat < 4 :=
    (rsvdField_eq_zero_iff w).1 (rsvdField_eq_zero_of_decode legal)
  cases exec_completion run with
  | reserved v isReserved =>
    have notSmall : ¬ w.toNat < 4 := mt (rsvdField_eq_zero_iff w).2 (rsvdField_ne_zero_of_decode isReserved)
    exact ⟨fun _ => statusWord_rsvdCmd, fun small => absurd small notSmall, fun small => absurd small notSmall⟩
  | overlong legal tooLong =>
    exact ⟨fun large => absurd (small_of_legal legal) large.not_gt, fun _ _ => statusWord_lenRange,
      fun _ fits => absurd tooLong fits.not_gt⟩
  | ok legal fits p d k out =>
    refine ⟨fun large => absurd (small_of_legal legal) large.not_gt, fun _ tooLong => absurd tooLong fits.not_gt,
      fun _ _ => ?_⟩
    have okStatus := statusWord_ok_mem (encBit (encode (decode w))) (autoBit (encode (decode w)))
    simp only [List.mem_cons, List.not_mem_nil, or_false] at okStatus
    exact okStatus.imp_right (Or.imp_right (Or.imp_right .inr))
  | noMatch isDeca fits d =>
    have small := small_of_legal (by simp [isDeca])
    exact ⟨fun large => absurd small large.not_gt, fun _ tooLong => absurd tooLong fits.not_gt,
      fun _ _ => .inr (.inr (.inr (.inl statusWord_noMatch)))⟩

/-- Settles O44: every command answers a next state, and RESULT is that of its way to complete. -/
theorem everyCommandCompletes : Obligations.EveryCommandCompletes := by
  unfold Obligations.EveryCommandCompletes
  intro i s
  obtain ⟨t, run, -⟩ := exec_setHost i s
  refine ⟨t, run, ?_⟩
  rcases (exec_completion run).status_cases with ⟨code, eq⟩ | ⟨r, rfl | rfl, eq⟩ <;>
    rw [eq, statusResult_statusWord]
  · exact .inr (.inr rfl)
  · exact .inl rfl
  · exact .inr (.inl rfl)

/-- Settles O45: ENCR rotates every cell by its draw, which no letter survives in place. -/
theorem encrMovesEveryLetter : Obligations.EncrMovesEveryLetter := by
  unfold Obligations.EncrMovesEveryLetter
  intro s t fits run i hi letter
  obtain ⟨t', r, run', low, high, -, -, -, -, out, -⟩ := encrCompletes s fits
  cases run.symm.trans run'
  rw [out.outCell_tshift hi]
  exact rot_fwd_ne_self letter low high

/-- Settles O46: ENC shifts forward by SHIFT, and DEC finds the same SHIFT. -/
theorem decUndoesEnc : Obligations.DecUndoesEnc := by
  unfold Obligations.DecUndoesEnc
  intro s t u fits run shift inLen fits' copied
  obtain ⟨t', run', -, -, outLen, out, -⟩ := encCompletes s fits
  cases run.symm.trans run'
  exact exec_dec_undoes_forward_shift outLen out (congrArg BitVec.toInt shift) inLen fits' copied

/-- Settles O47: ENCR shifts forward by its draw, which SHIFT_USED reads back as a signed number. -/
theorem decUndoesEncrWithReportedShift : Obligations.DecUndoesEncrWithReportedShift := by
  unfold Obligations.DecUndoesEncrWithReportedShift
  intro s t u fits run shift inLen fits' copied
  obtain ⟨t', r, run', -, -, -, -, reported, outLen, out, -⟩ := encrCompletes s fits
  cases run.symm.trans run'
  exact exec_dec_undoes_forward_shift outLen out ((congrArg BitVec.toInt shift).trans reported) inLen fits' copied

/-- Settles O48: no completion writes an input, and no command's effect reaches beyond its text or a loaded
dictionary. -/
theorem commandsKeepInputs : Obligations.CommandsKeepInputs := by
  unfold Obligations.CommandsKeepInputs
  intro i s t run
  obtain ⟨outCells, dict⟩ := State.BeyondTextKept.exec run
  exact ⟨(exec_completion run).inputsKept, outCells, dict⟩

/-- Settles O49, by the ways in which a command completes: RESULT tells OK, NOMATCH and ERROR apart. -/
theorem rejectedCommandsWriteNoPayload : Obligations.RejectedCommandsWriteNoPayload := by
  unfold Obligations.RejectedCommandsWriteNoPayload
  intro i s t run
  cases exec_completion run with
  | reserved w isReserved => exact ⟨fun noMatch => by simp [statusResult] at noMatch, fun _ => rfl⟩
  | overlong legal tooLong => exact ⟨fun noMatch => by simp [statusResult] at noMatch, fun _ => rfl⟩
  | ok legal fits p d k out => simp [resultCode]
  | noMatch isDeca fits d =>
    exact ⟨fun _ => ⟨fun _ => rfl, rfl, rfl⟩, fun error => by simp [statusResult] at error⟩

/-- Settles O41: RSVD completes with RSVD_CMD in every state, and ERROR writes STATUS alone. -/
theorem rsvdCompletes : Obligations.RsvdCompletes :=
  fun _ s => congrArg Host.Outcome.next s.completeError_rsvdCmd
end

section
/-!
SUPPORT. Commands on the empty text (R112, R181): nothing to shift, no cell to write.
-/

namespace Sys2Proof.Machine

theorem State.inputText_eq_nil {s : State} (empty : s.inLen = 0#32) : s.inputText = [] :=
  List.eq_nil_of_length_eq_zero (s.inputText_length.trans (congrArg BitVec.toNat empty))

theorem State.lengthOk_of_inLen_eq_zero {s : State} (empty : s.inLen = 0#32) : s.lengthOk :=
  (congrArg BitVec.toNat empty).trans_le (Nat.zero_le _)

theorem tshift_nil (k : Int) (dir : Direction) : tshift [] k dir = [] := rfl

/-- OK with the empty text writes three registers and no cell (R181). -/
theorem State.completeOk_nil (s : State) (w : Cell) (k : Int) :
    s.completeOk w k [] =
      { s with status := statusWord .ok (encBit w) (autoBit w) .none, shiftUsed := BitVec.ofInt 32 k, outLen := 0#32 } :=
  rfl

/-- ENC on the empty text, whatever SHIFT and the buffers hold (R183). -/
theorem exec_enc_of_inLen_eq_zero {s : State} (empty : s.inLen = 0#32) :
    exec .enc s = .next { s with status := 0x5#32, shiftUsed := s.shift, outLen := 0#32 } := by
  rw [exec_enc_of_lengthOk (State.lengthOk_of_inLen_eq_zero empty), State.inputText_eq_nil empty, tshift_nil,
    State.completeOk_nil, statusWord_ok_enc, BitVec.ofInt_toInt]

end Sys2Proof.Machine
end

section
/-!
THEOREMS. Reset and hazards: a command issued straight after reset (spec/70_reset_and_hazards.md).
-/

open Sys2Proof Sys2Proof.Machine

/-- Settles O17: IN_LEN is 0 at reset, and the SHIFT that ENC reports and the OUT_LEN it writes are 0 there already. -/
theorem encStraightAfterReset : Obligations.EncStraightAfterReset :=
  exec_enc_of_inLen_eq_zero (s := State.reset) rfl
end
